-- ==== Sys2Proof/Word.lean ====
section
/-! DEFINITION. The plainest types of OWM: words (00_scope.md R7: every value is unsigned), levels and
directions (R8). -/

namespace Sys2Proof

/-- A byte on the wire, in RXDATA and in the CRC (R68). -/
abbrev Byte := BitVec 8

/-- A host register, a command word, a GPIO value (R6: 32 bits). -/
abbrev Word := BitVec 32

/-- A GPIO address (R6: 64 bits). -/
abbrev Addr := BitVec 64

/-- A level of the wire or of the output latch (R8). -/
inductive Level where
  | low
  | high
  deriving DecidableEq, Repr, Inhabited

/-- A direction of the pin (R8: In or Out). -/
inductive Direction where
  | input
  | output
  deriving DecidableEq, Repr, Inhabited

end Sys2Proof
end

