-- ==== Sys2Proof/Syntax.lean ====
section
/-! DEFINITION. The commands of OWM as syntax (30_encoding.md R102 to R107). -/

namespace Sys2Proof

/-- The commands of OWM, one constructor per row of the opcode table (R107). Operands have the width
the encoding gives them (R104), so every term is a command some word encodes. -/
inductive Instr where
  /-- INIT, R250. -/
  | init
  /-- TEARDOWN, R254. -/
  | teardown
  /-- RESET, R185. -/
  | reset
  /-- WRITE_BIT, R189: `bit = w[8]`. -/
  | writeBit (bit : Bool)
  /-- READ_BIT, R192. -/
  | readBit
  /-- WRITE_BYTE, R200: `byte = w[23:16]`. -/
  | writeByte (byte : Byte)
  /-- READ_BYTE, R201. -/
  | readByte
  /-- SET_DIRECTION, R150: Out iff `w[8] = 1`. -/
  | setDirection (dir : Direction)
  /-- SET_LEVEL, R151: High iff `w[8] = 1`. -/
  | setLevel (lvl : Level)
  /-- READ_LEVEL, R152. -/
  | readLevel
  /-- DELAY_US, R165: `n = w[31:16]`. -/
  | delayUs (n : BitVec 16)
  /-- DELAY_MS, R166: `n = w[31:16]`. -/
  | delayMs (n : BitVec 16)
  /-- CRC_CLEAR, R223. -/
  | crcClear
  /-- CRC_UPDATE, R224: `byte = w[23:16]`. -/
  | crcUpdate (byte : Byte)
  /-- GET_ROMID_CRC_SUPPORT, R256. -/
  | getRomidCrcSupport
  deriving DecidableEq, Repr

end Sys2Proof
end

