-- ==== Sys2Proof/WellFormed.lean ====
section
/-! DEFINITION. When an assembler line is well formed (R115), and the command it stands for. An
`Instr` carries its operands at their encoded widths and needs no check of its own. -/

namespace Sys2Proof

/-- One line of the assembler syntax of R115: a mnemonic and at most one operand, a number the
assembler has yet to check against the operand's range. -/
inductive AsmLine where
  | init
  | teardown
  | reset
  /-- `wbit 0` or `wbit 1`. -/
  | wbit (bit : Nat)
  | rbit
  /-- `wbyte <imm8>`. -/
  | wbyte (imm8 : Nat)
  | rbyte
  /-- `setdir in` or `setdir out`. -/
  | setdir (dir : Direction)
  /-- `setlvl low` or `setlvl high`. -/
  | setlvl (lvl : Level)
  | rdlvl
  /-- `delay.us <imm16>`. -/
  | delayUs (imm16 : Nat)
  /-- `delay.ms <imm16>`. -/
  | delayMs (imm16 : Nat)
  | crcClr
  /-- `crc.upd <imm8>`. -/
  | crcUpd (imm8 : Nat)
  | getrcs
  deriving DecidableEq, Repr

/-- R115: an assembler refuses an operand out of range (imm8 > 0xFF, imm16 > 0xFFFF, a bit other
than 0 or 1). -/
def AsmLine.wellFormed : AsmLine → Bool
  | .wbit b => decide (b ≤ 1)
  | .wbyte v => decide (v ≤ 0xFF)
  | .crcUpd v => decide (v ≤ 0xFF)
  | .delayUs n => decide (n ≤ 0xFFFF)
  | .delayMs n => decide (n ≤ 0xFFFF)
  | .init | .teardown | .reset | .rbit | .rbyte | .setdir _ | .setlvl _ | .rdlvl | .crcClr
  | .getrcs => true

/-- The command a well-formed line stands for (R115's table). -/
def AsmLine.instr : AsmLine → Instr
  | .init => .init
  | .teardown => .teardown
  | .reset => .reset
  | .wbit b => .writeBit (b == 1)
  | .rbit => .readBit
  | .wbyte v => .writeByte (BitVec.ofNat 8 v)
  | .rbyte => .readByte
  | .setdir d => .setDirection d
  | .setlvl l => .setLevel l
  | .rdlvl => .readLevel
  | .delayUs n => .delayUs (BitVec.ofNat 16 n)
  | .delayMs n => .delayMs (BitVec.ofNat 16 n)
  | .crcClr => .crcClear
  | .crcUpd v => .crcUpdate (BitVec.ofNat 8 v)
  | .getrcs => .getRomidCrcSupport

/-- The assembler: a well-formed line gives its command, any other line is refused (R115). -/
def assemble (l : AsmLine) : Option Instr :=
  if l.wellFormed then some l.instr else none

end Sys2Proof
end

