-- ==== Sys2Proof/Decode.lean ====
section
/-! DEFINITION. Decoding command words (30_encoding.md R101 to R107), and the encoder written from
the same tables. -/

namespace Sys2Proof

/-- Why a word is illegal (R105). Either way the command completes with `ERR = ILLEGAL`. -/
inductive DecodeError where
  /-- OP is 0x00 or 0x10 to 0x1F. -/
  | illegalOpcode (op : BitVec 5)
  /-- OP is legal and a bit outside its format's operand fields is 1. -/
  | reservedBits (op : BitVec 5)
  /-- Fewer than the four bytes of a command word were given. Never raised for a CMD write. -/
  | shortWord
  deriving DecidableEq, Repr

/-- The four formats of R103. -/
inductive Format where
  | N
  | B
  | D
  | T
  deriving DecidableEq, Repr

/-- The mask of fixed bits of a format (R103). -/
def Format.mask : Format → Word
  | .N => 0xFFFFFFFF#32
  | .B => 0xFFFFFEFF#32
  | .D => 0xFF00FFFF#32
  | .T => 0x0000FFFF#32

/-- The format of each legal opcode (R103, R107). -/
def formatOf (op : BitVec 5) : Option Format :=
  match op.toNat with
  | 0x01 | 0x02 | 0x03 | 0x05 | 0x07 | 0x0A | 0x0D | 0x0F => some .N
  | 0x04 | 0x08 | 0x09 => some .B
  | 0x06 | 0x0E => some .D
  | 0x0B | 0x0C => some .T
  | _ => none

/-- OP, bits [4:0] of the command word (R102). -/
def opField (w : Word) : BitVec 5 := w.extractLsb' 0 5

/-- B, bit [8] of the command word (R102). -/
def bField (w : Word) : Bool := w.getLsbD 8

/-- D, bits [23:16] of the command word (R102). -/
def dField (w : Word) : Byte := w.extractLsb' 16 8

/-- N, bits [31:16] of the command word (R102). -/
def nField (w : Word) : BitVec 16 := w.extractLsb' 16 16

/-- Every bit outside the format's operand fields is 0, as the slices of R105's pseudocode. -/
def reservedClear (w : Word) : Format → Bool
  | .N => w.extractLsb' 5 27 == 0#27
  | .B => w.extractLsb' 9 23 == 0#23 && w.extractLsb' 5 3 == 0#3
  | .D => w.extractLsb' 24 8 == 0#8 && w.extractLsb' 5 11 == 0#11
  | .T => w.extractLsb' 5 11 == 0#11

/-- The direction a B operand names (R104: Out iff 1). -/
def directionOf (b : Bool) : Direction := if b then .output else .input

/-- The level a B operand names (R104: High iff 1). -/
def levelOf (b : Bool) : Level := if b then .high else .low

/-- The command of a legal opcode with the operands taken from the word (R104, R107). -/
def commandOfWord (w : Word) : Option Instr :=
  match (opField w).toNat with
  | 0x01 => some .init
  | 0x02 => some .teardown
  | 0x03 => some .reset
  | 0x04 => some (.writeBit (bField w))
  | 0x05 => some .readBit
  | 0x06 => some (.writeByte (dField w))
  | 0x07 => some .readByte
  | 0x08 => some (.setDirection (directionOf (bField w)))
  | 0x09 => some (.setLevel (levelOf (bField w)))
  | 0x0A => some .readLevel
  | 0x0B => some (.delayUs (nField w))
  | 0x0C => some (.delayMs (nField w))
  | 0x0D => some .crcClear
  | 0x0E => some (.crcUpdate (dField w))
  | 0x0F => some .getRomidCrcSupport
  | _ => none

/-- `decode` of R105: total on every 32-bit word. -/
def decode (w : Word) : Except DecodeError Instr :=
  match formatOf (opField w), commandOfWord w with
  | some f, some i => if reservedClear w f then .ok i else .error (.reservedBits (opField w))
  | _, _ => .error (.illegalOpcode (opField w))

/-- The four bytes of a word as the host window lays them out: little-endian (R63). -/
def wordBytes (w : Word) : List Byte :=
  [w.extractLsb' 0 8, w.extractLsb' 8 8, w.extractLsb' 16 8, w.extractLsb' 24 8]

/-- The word four little-endian bytes hold (R63). -/
def wordOfBytes (b0 b1 b2 b3 : Byte) : Word := b3 ++ b2 ++ b1 ++ b0

/-- Decode a command word from its bytes in the host window, lowest address first, and give back the
bytes that follow it. Total on any bytes. -/
def decodeBytes : List Byte → Except DecodeError (Instr × List Byte)
  | b0 :: b1 :: b2 :: b3 :: rest =>
    match decode (wordOfBytes b0 b1 b2 b3) with
    | .ok i => .ok (i, rest)
    | .error e => .error e
  | _ => .error .shortWord

/-- The command the decoder reads from a table word of `nbits` bits; every bit above them is 0. A
number that has a bit above the 32 of a command word is no command word (R101). -/
def decodeTableWord (nbits w : Nat) : Option Instr :=
  if w % 2 ^ nbits < 2 ^ 32 then
    match decodeBytes (wordBytes (BitVec.ofNat 32 (w % 2 ^ nbits))) with
    | .ok (i, _) => some i
    | .error _ => none
  else none

/-- A word with opcode `op` and no operand (format N, R103). -/
def wordN (op : Word) : Word := op

/-- A word with opcode `op` and the B operand at bit 8 (format B, R103). -/
def wordB (op : Word) (b : Bool) : Word := op ||| ((BitVec.ofBool b).setWidth 32 <<< 8)

/-- A word with opcode `op` and the D operand at bits [23:16] (format D, R103). -/
def wordD (op : Word) (d : Byte) : Word := op ||| (d.setWidth 32 <<< 16)

/-- A word with opcode `op` and the N operand at bits [31:16] (format T, R103). -/
def wordT (op : Word) (n : BitVec 16) : Word := op ||| (n.setWidth 32 <<< 16)

/-- The word of a command (R103, R107, R115's table). -/
def encode : Instr → Word
  | .init => wordN 0x01#32
  | .teardown => wordN 0x02#32
  | .reset => wordN 0x03#32
  | .writeBit b => wordB 0x04#32 b
  | .readBit => wordN 0x05#32
  | .writeByte d => wordD 0x06#32 d
  | .readByte => wordN 0x07#32
  | .setDirection dir => wordB 0x08#32 (decide (dir = .output))
  | .setLevel lvl => wordB 0x09#32 (decide (lvl = .high))
  | .readLevel => wordN 0x0A#32
  | .delayUs n => wordT 0x0B#32 n
  | .delayMs n => wordT 0x0C#32 n
  | .crcClear => wordN 0x0D#32
  | .crcUpdate d => wordD 0x0E#32 d
  | .getRomidCrcSupport => wordN 0x0F#32

end Sys2Proof
end

