-- ==== Sys2Proof/Config.lean ====
section
/-! DEFINITION. What the platform and the environment fix: the parameters of 00_scope.md R6, and the
free values of the spec (the environment oracle R46, the draws of R142, R146 and R161, the input bits
of R145). Each is a constant with no body, so nothing can be proved of its value. `Platform` bundles
them, so that a claim may also be stated of every platform, or of one with a premise on its slaves. -/

namespace Sys2Proof

/-- The kinds of line-driver write (R9). -/
inductive DriveKind where
  | outHigh
  | outLow
  | dirOut
  | dirIn
  deriving DecidableEq, Repr, Inhabited

/-- `STATUS.ERR` (60_exceptions.md R280). Codes 5 to 7 are never produced and have no constructor. -/
inductive ErrCode where
  /-- 0 NONE. -/
  | none
  /-- 1 CFG_UNINIT. -/
  | cfgUninit
  /-- 2 CFG_INVALID. -/
  | cfgInvalid
  /-- 3 CFG_ACTIVE. -/
  | cfgActive
  /-- 4 ILLEGAL. -/
  | illegal
  deriving DecidableEq, Repr, Inhabited

/-- The timed events of the history (R45). The last argument of each is its time. -/
inductive Event where
  | cmdStart (word : Word) (t : Nat)
  | cmdEnd (op : BitVec 5) (err : ErrCode) (t : Nat)
  | drive (k : DriveKind) (t : Nat)
  | sample (lvl : Level) (t : Nat)
  /-- A delay of `n` µs that lasted `d` µs. -/
  | wait (n d t : Nat)
  /-- A command word dropped under BUSY (R106). -/
  | dropped (word : Word) (t : Nat)
  | idle (d t : Nat)
  deriving DecidableEq, Repr, Inhabited

/-- The electrical mode of the pad (R6, `PAD_DRIVE`). -/
inductive PadDrive where
  | openDrain
  | pushPull
  deriving DecidableEq, Repr, Inhabited

/-- A platform: one value for each parameter of R6 and each free value. It is no part of the state. -/
structure Platform where
  /-- Host address of the register window. -/
  P_BASE : Nat
  PAD_DRIVE : PadDrive
  T_RSTL : Nat
  T_PDS : Nat
  T_RSTREC : Nat
  T_W1L : Nat
  T_W1H : Nat
  T_W0REC : Nat
  T_RL : Nat
  T_RREC : Nat
  DELAY_JITTER : Nat
  T_GPIO_MAX : Nat
  /-- Informative; no rule reads it (D36). -/
  ROMID_LEN : Nat
  /-- `Env(hist, t)` of R46. The first argument counts the block resets so far: the slaves are not
  reset with the block (R313), so after one the same history may meet another answer. -/
  env : Nat → List Event → Nat → Level
  /-- The k-th access draw, taken modulo `T_GPIO_MAX + 1` (R142). -/
  gpioDraw : Nat → Nat
  /-- The k-th delay draw, taken modulo `DELAY_JITTER + 1` (R161). -/
  delayDraw : Nat → Nat
  /-- The k-th draw of a level under push-pull contention (R146). -/
  contention : Nat → Level
  /-- The k-th input word, before the pin's masked bits are made to follow the wire (R145, K19). -/
  inputBits : Nat → Word

opaque Config.P_BASE : Nat
opaque Config.PAD_DRIVE : PadDrive
opaque Config.T_RSTL : Nat
opaque Config.T_PDS : Nat
opaque Config.T_RSTREC : Nat
opaque Config.T_W1L : Nat
opaque Config.T_W1H : Nat
opaque Config.T_W0REC : Nat
opaque Config.T_RL : Nat
opaque Config.T_RREC : Nat
opaque Config.DELAY_JITTER : Nat
opaque Config.T_GPIO_MAX : Nat
opaque Config.ROMID_LEN : Nat
opaque Config.env : Nat → List Event → Nat → Level
opaque Config.gpioDraw : Nat → Nat
opaque Config.delayDraw : Nat → Nat
opaque Config.contention : Nat → Level
opaque Config.inputBits : Nat → Word

/-- The platform the machine stands on: every field uninterpreted. -/
def Config.platform : Platform where
  P_BASE := Config.P_BASE
  PAD_DRIVE := Config.PAD_DRIVE
  T_RSTL := Config.T_RSTL
  T_PDS := Config.T_PDS
  T_RSTREC := Config.T_RSTREC
  T_W1L := Config.T_W1L
  T_W1H := Config.T_W1H
  T_W0REC := Config.T_W0REC
  T_RL := Config.T_RL
  T_RREC := Config.T_RREC
  DELAY_JITTER := Config.DELAY_JITTER
  T_GPIO_MAX := Config.T_GPIO_MAX
  ROMID_LEN := Config.ROMID_LEN
  env := Config.env
  gpioDraw := Config.gpioDraw
  delayDraw := Config.delayDraw
  contention := Config.contention
  inputBits := Config.inputBits

end Sys2Proof
end

