-- ==== Sys2Proof/Machine/State.lean ====
section
/-! DEFINITION. Every piece of state OWM has (10_state.md), the model's own bookkeeping beside it, the
state after a block reset (70_reset_and_hazards.md R310), and the reasons a step can stop. -/

namespace Sys2Proof.Machine

/-- The active context `ctx` (R21). Also the shape of `seq.snapshot` (R251). -/
structure Context where
  aOutHigh : Addr
  vOutHigh : Word
  aOutLow : Addr
  vOutLow : Word
  aDirOut : Addr
  vDirOut : Word
  aDirIn : Addr
  vDirIn : Word
  aIn : Addr
  mIn : Word
  /-- Stored, read by nothing (K27). -/
  pin : Word
  /-- Stored, read by nothing (K27). -/
  version : Word
  /-- `write_begin_low_level_time`, µs (R22). -/
  tWbl : Word
  /-- `write_release_ic_time`, µs (R22). -/
  tWri : Word
  /-- `romid_crc_support` (R25). -/
  rcs : Bool
  deriving DecidableEq, Repr, Inhabited

/-- The staging registers (R24). `CFG_FLAGS` has storage for bit 0 only: its bits [31:1] are
reserved, read 0 and ignore writes. -/
structure Staging where
  outHighAddrLo : Word
  outHighAddrHi : Word
  outHighVal : Word
  outLowAddrLo : Word
  outLowAddrHi : Word
  outLowVal : Word
  dirOutAddrLo : Word
  dirOutAddrHi : Word
  dirOutVal : Word
  dirInAddrLo : Word
  dirInAddrHi : Word
  dirInVal : Word
  inAddrLo : Word
  inAddrHi : Word
  inMask : Word
  pin : Word
  version : Word
  tWbl : Word
  tWri : Word
  flag0 : Bool
  deriving DecidableEq, Repr, Inhabited

/-- The line record (R27): the last direction write and the last level write OWM made. -/
structure Line where
  dir : Direction
  lvl : Level
  deriving DecidableEq, Repr, Inhabited

/-- The sequencer (R40). -/
structure Sequencer where
  busy : Bool
  op : BitVec 5
  word : Word
  /-- How many primitives of the command have been executed. -/
  step : Nat
  i : Fin 8
  shift : Byte
  sample : Level
  snapshot : Context
  deriving DecidableEq, Repr, Inhabited

/-- What crosses the GPIO master port: a 32-bit write (R75), or a 32-bit read and the word it
returned (R76). -/
inductive PortAccess where
  | write (addr : Addr) (data : Word)
  | read (addr : Addr) (data : Word)
  deriving DecidableEq, Repr, Inhabited

/-- What reaches OWM from outside: the host's loads and stores (R90; `addr` is a platform address,
`size` in bytes), its `wait` (R115: it reads STATUS until BUSY = 0, log 20), an idle gap of the host
(R44), and the platform's block reset (R312). -/
inductive HostAction where
  | load (addr size : Nat)
  | store (addr size : Nat) (data : Word)
  | wait
  | idle (d : Nat)
  | blockReset
  deriving DecidableEq, Repr

/-- A coming action and when it lands: `some k` once the running command has executed `k` primitives
(or no command runs), `none` once no command runs. A wait and an idle gap end and lie outside commands
whatever the field says. -/
structure HostEntry where
  due : Option Nat
  act : HostAction
  deriving DecidableEq, Repr

/-- The state of OWM, and below the line the model's own fields. -/
structure State where
  /-- R20. -/
  ctxValid : Bool
  /-- R21. -/
  ctx : Context
  /-- R24. -/
  staging : Staging
  /-- R27. -/
  line : Line
  /-- STATUS.DONE (R30). -/
  done : Bool
  /-- STATUS.PRESENCE (R31). -/
  presence : Bool
  /-- STATUS.ERR (R280). -/
  err : ErrCode
  /-- STATUS.OVR (R282). -/
  ovr : Bool
  /-- RXDATA[7:0] (R33). -/
  rxdata : Byte
  /-- CRC.ACC (R34). -/
  crcAcc : Byte
  /-- CRC.COUNT (R34). -/
  crcCount : BitVec 16
  /-- R40; STATUS.BUSY is `seq.busy`. -/
  seq : Sequencer
  /-- Bus time (R44). -/
  now : Nat
  /-- Event history (R45), oldest first. -/
  hist : List Event
  -- The model's own fields:
  /-- What crossed the GPIO master port, oldest first. -/
  port : List PortAccess
  /-- The index of the next free draw: how many GPIO accesses and delays there have been. -/
  draws : Nat
  /-- The actions that are still to come, next first. -/
  inbox : List HostEntry
  /-- The values host loads have returned, oldest first. -/
  got : List Word
  /-- How many block resets there have been. -/
  epoch : Nat
  deriving DecidableEq, Repr

/-- OWM has no trap (60_exceptions.md R285): an error is a completion with a code in STATUS.ERR, and
no step faults. So no fault exists, and nobody raises one. -/
inductive Fault
  deriving DecidableEq, Repr

/-- Why a step has no meaning. -/
inductive Refusal where
  /-- Raised by an arm of `exec` whose instruction has no meaning yet. Safe. No arm raises it now. -/
  | notModelled (mnemonic : String)
  /-- Raised by a host access that is not 32 bits wide (R62: refused). Safe: the run stops. -/
  | hostAccessWidth
  /-- Raised by a host access at an offset that is no multiple of 4 (R62: refused). Safe. -/
  | hostAccessMisaligned
  /-- Raised by a host access outside OWM's window, an action that is not in R90's table (K22:
  refused). Safe. -/
  | hostAccessOutsideWindow
  deriving DecidableEq, Repr

/-- A context of zeros: the value of `ctx` and `seq.snapshot` at reset, where R310 says unspecified
and unobservable. DESIGN CHOICE (log 8, log 9). -/
def Context.zero : Context where
  aOutHigh := 0#64
  vOutHigh := 0#32
  aOutLow := 0#64
  vOutLow := 0#32
  aDirOut := 0#64
  vDirOut := 0#32
  aDirIn := 0#64
  vDirIn := 0#32
  aIn := 0#64
  mIn := 0#32
  pin := 0#32
  version := 0#32
  tWbl := 0#32
  tWri := 0#32
  rcs := false

/-- Every staging register resets to 0 (R24, R310). -/
def Staging.zero : Staging where
  outHighAddrLo := 0#32
  outHighAddrHi := 0#32
  outHighVal := 0#32
  outLowAddrLo := 0#32
  outLowAddrHi := 0#32
  outLowVal := 0#32
  dirOutAddrLo := 0#32
  dirOutAddrHi := 0#32
  dirOutVal := 0#32
  dirInAddrLo := 0#32
  dirInAddrHi := 0#32
  dirInVal := 0#32
  inAddrLo := 0#32
  inAddrHi := 0#32
  inMask := 0#32
  pin := 0#32
  version := 0#32
  tWbl := 0#32
  tWri := 0#32
  flag0 := false

/-- `line = (In, High)` at reset (R27, R310). -/
def Line.reset : Line := ⟨.input, .high⟩

/-- `seq.busy = 0` at reset (R40, R310); the other fields are unspecified and unobservable, held at 0.
DESIGN CHOICE (log 9). -/
def Sequencer.reset : Sequencer where
  busy := false
  op := 0#5
  word := 0#32
  step := 0
  i := 0
  shift := 0#8
  sample := .low
  snapshot := Context.zero

/-- The state right after a block reset (R310). -/
def State.reset : State where
  ctxValid := false
  ctx := Context.zero
  staging := Staging.zero
  line := Line.reset
  done := false
  presence := false
  err := .none
  ovr := false
  rxdata := 0#8
  crcAcc := 0#8
  crcCount := 0#16
  seq := Sequencer.reset
  now := 0
  hist := []
  port := []
  draws := 0
  inbox := []
  got := []
  epoch := 0

end Sys2Proof.Machine
end

