-- ==== Sys2Proof/Machine/Operands.lean ====
section
/-! DEFINITION. What operands and staged fields stand for: the line-driver write a direction or a
level asks for, the bits of a byte in wire order, durations, the snapshot of the staging registers,
and its validation. -/

namespace Sys2Proof.Machine

/-- The write that sets a direction (R150). -/
def dirKind : Direction → DriveKind
  | .output => .dirOut
  | .input => .dirIn

/-- The write that sets a level (R151). -/
def lvlKind : Level → DriveKind
  | .high => .outHigh
  | .low => .outLow

/-- The bit a sampled level is: High is 1, Low is 0 (R193). -/
def levelBit (l : Level) : Bool := decide (l = .high)

/-- A bit as a byte, `zext` of R7. -/
def bitByte (b : Bool) : Byte := (BitVec.ofBool b).setWidth 8

/-- The bit indices of a byte in wire order, least significant first (R67). -/
def bitOrder : List (Fin 8) := [0, 1, 2, 3, 4, 5, 6, 7]

/-- Bit `i` of a byte (R7). -/
def byteBit (v : Byte) (i : Fin 8) : Bool := v.getLsbD i.val

/-- A byte with bit `i` set to `b`, the other bits kept: `v[i] <- b`. -/
def withBit (v : Byte) (i : Fin 8) (b : Bool) : Byte :=
  (v &&& ~~~(1#8 <<< i.val)) ||| (bitByte b <<< i.val)

/-- The duration DELAY_US waits, in µs: `zext(n)` (R165). -/
def delayUsTime (n : BitVec 16) : Nat := n.toNat

/-- The duration DELAY_MS waits, in µs: the exact product `1000 · n` (R166). -/
def delayMsTime (n : BitVec 16) : Nat := 1000 * n.toNat

/-- A 64-bit address from its staged halves, `(HI, LO)` concatenated (R24). -/
def addrOf (hi lo : Word) : Addr := hi ++ lo

/-- The values of all staging registers in the shape of a context (R251). -/
def snapshotOf (g : Staging) : Context where
  aOutHigh := addrOf g.outHighAddrHi g.outHighAddrLo
  vOutHigh := g.outHighVal
  aOutLow := addrOf g.outLowAddrHi g.outLowAddrLo
  vOutLow := g.outLowVal
  aDirOut := addrOf g.dirOutAddrHi g.dirOutAddrLo
  vDirOut := g.dirOutVal
  aDirIn := addrOf g.dirInAddrHi g.dirInAddrLo
  vDirIn := g.dirInVal
  aIn := addrOf g.inAddrHi g.inAddrLo
  mIn := g.inMask
  pin := g.pin
  version := g.version
  tWbl := g.tWbl
  tWri := g.tWri
  rcs := g.flag0

/-- `valid(s)` of R252. -/
def valid (c : Context) : Bool :=
  c.aOutHigh != 0#64 && c.aOutLow != 0#64 && c.aDirOut != 0#64 && c.aDirIn != 0#64 && c.aIn != 0#64
    && c.mIn != 0#32 && c.tWbl != 0#32 && c.tWri != 0#32

end Sys2Proof.Machine
end

