-- ==== Sys2Proof/Machine/Flags.lean ====
section
/-! DEFINITION. The flags a host reads: STATUS and its fields (10_state.md R30 to R32, R43), RXDATA
(R33), CRC (R34), and the saturating byte count (R224). -/

namespace Sys2Proof.Machine

/-- The code of an error (R280). -/
def errBits : ErrCode → BitVec 3
  | .none => 0#3
  | .cfgUninit => 1#3
  | .cfgInvalid => 2#3
  | .cfgActive => 3#3
  | .illegal => 4#3

/-- STATUS.CRC_OK, recomputed at every read: `COUNT >= 1` and `ACC = 0` (R32, R226). -/
def crcOk (s : State) : Bool := decide (1 ≤ s.crcCount.toNat) && s.crcAcc == 0#8

/-- STATUS.LINE_DIR: 1 iff Out (R30). -/
def lineDirBit (s : State) : Bool := decide (s.line.dir = .output)

/-- STATUS.LINE_LVL: 1 iff High (R30). -/
def lineLvlBit (s : State) : Bool := decide (s.line.lvl = .high)

/-- The STATUS register, from bit 31 down to bit 0 (R30). -/
def statusWord (s : State) : Word :=
  0#20 ++ BitVec.ofBool s.ovr ++ errBits s.err ++ BitVec.ofBool (lineLvlBit s)
    ++ BitVec.ofBool (lineDirBit s) ++ 0#1 ++ BitVec.ofBool (crcOk s) ++ BitVec.ofBool s.presence
    ++ BitVec.ofBool s.ctxValid ++ BitVec.ofBool s.done ++ BitVec.ofBool s.seq.busy

/-- The RXDATA register (R33). -/
def rxdataWord (s : State) : Word := s.rxdata.setWidth 32

/-- The CRC register (R34). -/
def crcWord (s : State) : Word := s.crcCount ++ 0#8 ++ s.crcAcc

/-- The CFG_FLAGS register: bit 0, bits [31:1] read 0 (R24). -/
def flagsWord (g : Staging) : Word := (BitVec.ofBool g.flag0).setWidth 32

/-- The byte count after one more byte, saturating at 0xFFFF (R224). -/
def countUp (n : BitVec 16) : BitVec 16 := if n = 0xFFFF#16 then 0xFFFF#16 else n + 1#16

end Sys2Proof.Machine
end

