-- ==== Sys2Proof/Machine/Ops.lean ====
section
/-! DEFINITION. The shared operations of OWM: the primitives of 00_scope.md R9 (GPIO write R142,
GPIO read R145, delay R161, `Emit` R45), the wire (R28, R146), acceptance, completion and `raise`
(30_encoding.md R108 to R110), and the sequencer that runs a command's micro-operations (R40, R41).
OWM has no trap and no return from one (R285, R286): `raise` is the one operation that takes an
error. -/

namespace Sys2Proof.Machine

/-- `Emit(e)` (R9). -/
def emit (e : Event) (s : State) : State := { s with hist := s.hist ++ [e] }

/-! ### The wire -/

/-- OWM pulls the wire low (R28). -/
def masterLow (s : State) : Bool := decide (s.line.dir = .output) && decide (s.line.lvl = .low)

/-- OWM drives the wire High (R28). -/
def masterHigh (p : Platform) (s : State) : Bool :=
  decide (p.PAD_DRIVE = .pushPull) && decide (s.line.dir = .output) && decide (s.line.lvl = .high)

/-- `Env(hist, t)` (R46). -/
def envLevel (p : Platform) (s : State) (t : Nat) : Level := p.env s.epoch s.hist t

/-- `Wire(t)` (R146). Under contention the level is a draw. DESIGN CHOICE (log 25): from reset to the
first INIT the line record says nothing of the pin (R27, K12), and the same formula then gives the
environment's answer alone. No command samples there. -/
def wire (p : Platform) (s : State) (t : Nat) : Level :=
  if masterLow s then .low
  else if masterHigh p s then
    match envLevel p s t with
    | .high => .high
    | .low => p.contention s.draws
  else envLevel p s t

/-! ### The GPIO master port and the delay engine -/

/-- The duration of the next GPIO access, a draw in [0, T_GPIO_MAX] (R142). -/
def gpioTime (p : Platform) (s : State) : Nat := p.gpioDraw s.draws % (p.T_GPIO_MAX + 1)

/-- The duration of the next delay of `n` µs, a draw in [n, n + DELAY_JITTER] (R161). -/
def delayTime (p : Platform) (n : Nat) (s : State) : Nat :=
  n + p.delayDraw s.draws % (p.DELAY_JITTER + 1)

/-- Where GW(k) writes (R142). -/
def driveAddr (c : Context) : DriveKind → Addr
  | .outHigh => c.aOutHigh
  | .outLow => c.aOutLow
  | .dirOut => c.aDirOut
  | .dirIn => c.aDirIn

/-- What GW(k) writes (R142). -/
def driveData (c : Context) : DriveKind → Word
  | .outHigh => c.vOutHigh
  | .outLow => c.vOutLow
  | .dirOut => c.vDirOut
  | .dirIn => c.vDirIn

/-- The line record after GW(k) (R27, R142). -/
def driveLine (l : Line) : DriveKind → Line
  | .outHigh => { l with lvl := .high }
  | .outLow => { l with lvl := .low }
  | .dirOut => { l with dir := .output }
  | .dirIn => { l with dir := .input }

/-- `GW(k)` (R142): one MemWrite (R75), the draw of its duration, the line record, the event. -/
def gw (p : Platform) (k : DriveKind) (s : State) : State :=
  emit (.drive k (s.now + gpioTime p s))
    { s with
      port := s.port ++ [.write (driveAddr s.ctx k) (driveData s.ctx k)]
      now := s.now + gpioTime p s
      draws := s.draws + 1
      line := driveLine s.line k }

/-- The word a MemRead of the input address returns (R76, R145): the bits the mask selects follow the
wire, which the platform assumption gives, and every other bit is free (K19). -/
def inputWord (p : Platform) (s : State) (lvl : Level) : Word :=
  let r := p.inputBits s.draws
  match lvl with
  | .high => if r &&& s.ctx.mIn = 0#32 then r ||| s.ctx.mIn else r
  | .low => r &&& ~~~s.ctx.mIn

/-- The level in an input word: High iff the masked bits are not 0 (R145). -/
def levelOfWord (w m : Word) : Level := if w &&& m ≠ 0#32 then .high else .low

/-- The word the next GR reads: the wire is the one at the end of the access (R145). -/
def readWord (p : Platform) (s : State) : Word :=
  inputWord p s (wire p s (s.now + gpioTime p s))

/-- The level the next GR returns (R145). -/
def readLevel (p : Platform) (s : State) : Level := levelOfWord (readWord p s) s.ctx.mIn

/-- `GR()` (R145): one MemRead (R76), its duration, `seq.sample`, the event. -/
def gr (p : Platform) (s : State) : State :=
  emit (.sample (readLevel p s) (s.now + gpioTime p s))
    { s with
      port := s.port ++ [.read s.ctx.aIn (readWord p s)]
      now := s.now + gpioTime p s
      draws := s.draws + 1
      seq := { s.seq with sample := readLevel p s } }

/-- `Delay(n)` (R161). -/
def delay (p : Platform) (n : Nat) (s : State) : State :=
  emit (.wait n (delayTime p n s) (s.now + delayTime p n s))
    { s with now := s.now + delayTime p n s, draws := s.draws + 1 }

/-! ### Acceptance, completion, errors -/

/-- Acceptance of a command word (R108). The snapshot of the staging registers is taken in the same
step when the word is INIT (R251). -/
def accept (w : Word) (s : State) : State :=
  emit (.cmdStart w s.now)
    { s with
      done := false
      err := .none
      seq := { s.seq with
        busy := true
        word := w
        op := opField w
        step := 0
        snapshot := if decode w = .ok .init then snapshotOf s.staging else s.seq.snapshot } }

/-- A command word written while BUSY = 1 is dropped (R106). -/
def drop (w : Word) (s : State) : State := emit (.dropped w s.now) { s with ovr := true }

/-- Completion with an error code (R109, R110). -/
def finish (err : ErrCode) (s : State) : State :=
  emit (.cmdEnd s.seq.op err s.now)
    { s with err := err, done := true, seq := { s.seq with busy := false } }

/-- `raise` (R9, R110, R285): OWM has no trap, so taking an error is a completion with its code, after
the command's own result field, if it has one, is written 0 (R283). -/
def raise (err : ErrCode) (zero : State → State) (s : State) : State := finish err (zero s)

/-- An accepted illegal word completes with ILLEGAL and writes no result field (R105). -/
def execIllegal (s : State) : Host.Outcome State Fault Refusal := .next (raise .illegal id s)

/-! ### The sequencer -/

/-- A primitive a command's pseudocode names (R9). -/
inductive Prim where
  | gw (k : DriveKind)
  | gr
  | delay (n : Nat)
  deriving DecidableEq, Repr

/-- A micro-operation (R40): a primitive; the bit index `seq.i` it runs under in a byte command; and
whether the sampled bit is put into `seq.shift[seq.i]` after it (R201). -/
structure Micro where
  prim : Prim
  bit : Option (Fin 8) := none
  latch : Bool := false
  deriving DecidableEq, Repr

/-- A primitive's effect. -/
def runPrim (p : Platform) : Prim → State → State
  | .gw k, s => gw p k s
  | .gr, s => gr p s
  | .delay n, s => delay p n s

/-- `seq.i` takes the bit index of a byte command's micro-operation (R40). -/
def setIndex (b : Option (Fin 8)) (s : State) : State :=
  match b with
  | some i => { s with seq := { s.seq with i := i } }
  | none => s

/-- `seq.shift[seq.i] <- b` for the bit just sampled (R201). -/
def latchBit (on : Bool) (s : State) : State :=
  if on then
    { s with seq := { s.seq with shift := withBit s.seq.shift s.seq.i (levelBit s.seq.sample) } }
  else s

/-- `seq.step` advances by one primitive (R40). -/
def countStep (s : State) : State := { s with seq := { s.seq with step := s.seq.step + 1 } }

/-- One micro-operation. -/
def runMicro (p : Platform) (m : Micro) (s : State) : State :=
  countStep (latchBit m.latch (runPrim p m.prim (setIndex m.bit s)))

/-- Micro-operations in order, each complete before the next starts (R10, R41). -/
def runMicros (p : Platform) : List Micro → State → State
  | [], s => s
  | m :: ms, s => runMicros p ms (runMicro p m s)

/-- A command as its rule gives it: the check made before any effect (R111), what a failed check
writes (R283), the register updates before the first primitive, the micro-operations, and the result
fields written at completion (R109). -/
structure Command where
  check : State → ErrCode
  zero : State → State
  load : State → State
  micros : State → List Micro
  result : State → State

/-- When an entry lands inside a running command: after how many primitives. An idle gap lies between
commands (R44) and a wait ends with BUSY = 0 (R115), so they never do. -/
def HostEntry.stop (e : HostEntry) : Option Nat :=
  match e.act with
  | .idle _ | .wait => none
  | .load .. | .store .. | .blockReset => e.due

/-- The primitive count at which the next host action interrupts the sequencer, if it does. -/
def stopAt (s : State) : Option Nat :=
  match s.inbox with
  | [] => none
  | e :: _ => e.stop

/-- A host action is due now, before the running command's next primitive. -/
def actionDue (s : State) : Bool :=
  match stopAt s with
  | some k => decide (k ≤ s.seq.step)
  | none => false

/-- Run the micro-operations from `seq.step` on, up to completion, or up to the primitive after which
the next host action lands. -/
def Command.advance (c : Command) (p : Platform) (s : State) : State :=
  match stopAt s with
  | none => finish .none (c.result (runMicros p ((c.micros s).drop s.seq.step) s))
  | some k =>
    if k ≤ (c.micros s).length then runMicros p (((c.micros s).take k).drop s.seq.step) s
    else finish .none (c.result (runMicros p ((c.micros s).drop s.seq.step) s))

/-- A command from its first check (R111), or from where it stands. -/
def Command.runFrom (c : Command) (p : Platform) (s : State) : State :=
  if s.seq.step = 0 then
    match c.check s with
    | .none => c.advance p (c.load s)
    | e => raise e c.zero s
  else c.advance p s

/-- The meaning of an accepted command: it runs to completion (R42) unless a host action is to land
before that; then it runs up to there, and goes on at the next step. -/
def Command.run (c : Command) (p : Platform) (s : State) : Host.Outcome State Fault Refusal :=
  .next (if actionDue s then s else c.runFrom p s)

/-- The check of a command that needs an active context (R111, R140). -/
def needCtx (s : State) : ErrCode := if s.ctxValid then .none else .cfgUninit

/-- The check of a command that needs none (R111). -/
def noCheck (_ : State) : ErrCode := .none

/-- PRESENCE as a result field (R31). -/
def setPresence (b : Bool) (s : State) : State := { s with presence := b }

/-- RXDATA as a result field (R33). -/
def setRxdata (v : Byte) (s : State) : State := { s with rxdata := v }

/-! ### Micro-operation lists (R141, R184) -/

/-- DRIVE_LOW (R141). -/
def driveLow : List Prim := [.gw .outLow, .gw .dirOut]

/-- RELEASE (R141). -/
def release : List Prim := [.gw .dirIn]

/-- IDLE (R141). -/
def idleLine : List Prim := [.gw .outHigh, .gw .dirOut]

/-- Primitives as micro-operations of a command that is no byte command. -/
def plain (ps : List Prim) : List Micro := ps.map fun q => ⟨q, none, false⟩

/-- Primitives as micro-operations under bit index `i`. -/
def under (i : Fin 8) (ps : List Prim) : List Micro := ps.map fun q => ⟨q, some i, false⟩

/-- How long a write slot holds the wire low (R184, R190, R191). -/
def slotLow (p : Platform) (c : Context) (b : Bool) : Nat := if b then p.T_W1L else c.tWbl.toNat

/-- How long a write slot leaves the wire released (R184, R190, R191). -/
def slotRec (p : Platform) (b : Bool) : Nat := if b then p.T_W1H else p.T_W0REC

/-- WSLOT(b) (R184). -/
def wslot (p : Platform) (c : Context) (b : Bool) : List Prim :=
  driveLow ++ [.delay (slotLow p c b)] ++ release ++ [.delay (slotRec p b)]

/-- RSLOT() (R184); the bit is `seq.sample` when it ends. -/
def rslotHead (p : Platform) (c : Context) : List Prim :=
  driveLow ++ [.delay p.T_RL] ++ release ++ [.delay c.tWri.toNat, .gr]

/-- The delay that ends RSLOT() (R184). -/
def rslotTail (p : Platform) : Prim := .delay p.T_RREC

/-- RSTSEQ() (R184); the level is `seq.sample` when it ends. -/
def rstseq (p : Platform) : List Prim :=
  driveLow ++ [.delay p.T_RSTL] ++ release ++ [.delay p.T_PDS, .gr, .delay p.T_RSTREC]

end Sys2Proof.Machine
end

