-- ==== Sys2Proof/Machine/Crc.lean ====
section
/-! DEFINITION. The CRC-8 validator: the function of 43_crc.md R222 and the commands CRC_CLEAR and
CRC_UPDATE (R223, R224). Neither checks CTX_VALID or `ctx.rcs` (R230). -/

namespace Sys2Proof.Machine

/-- `crc_bit(c, b)` (R222). -/
def crcBit (c : Byte) (b : Bool) : Byte :=
  if c.getLsbD 0 ^^ b then (c >>> 1) ^^^ 0x8C#8 else c >>> 1

/-- `crc_byte(c, v)`, bit 0 of `v` first (R222). -/
def crcByte (c v : Byte) : Byte := bitOrder.foldl (fun c i => crcBit c (byteBit v i)) c

/-- `crc8(b0, ..., bk-1)` (R222). -/
def crc8 (bs : List Byte) : Byte := bs.foldl crcByte 0#8

/-- ACC and COUNT to 0 (R223). -/
def clearCrc (s : State) : State := { s with crcAcc := 0#8, crcCount := 0#16 }

/-- One byte folded into ACC, COUNT one more (R224). -/
def foldCrc (byte : Byte) (s : State) : State :=
  { s with crcAcc := crcByte s.crcAcc byte, crcCount := countUp s.crcCount }

/-- CRC_CLEAR (R223). -/
def crcClearCommand : Command where
  check := noCheck
  zero := id
  load := id
  micros _ := []
  result := clearCrc

/-- CRC_CLEAR (R223). -/
def execCrcClear (s : State) : Host.Outcome State Fault Refusal :=
  crcClearCommand.run Config.platform s

/-- CRC_UPDATE (R224). -/
def crcUpdateCommand (byte : Byte) : Command where
  check := noCheck
  zero := id
  load := id
  micros _ := []
  result := foldCrc byte

/-- CRC_UPDATE (R224). -/
def execCrcUpdate (byte : Byte) (s : State) : Host.Outcome State Fault Refusal :=
  (crcUpdateCommand byte).run Config.platform s

end Sys2Proof.Machine
end

