-- ==== Sys2Proof/Machine/LineDriver.lean ====
section
/-! DEFINITION. The raw line commands: SET_DIRECTION, SET_LEVEL, READ_LEVEL (40_line_driver.md R150
to R153). -/

namespace Sys2Proof.Machine

/-- SET_DIRECTION (R150). -/
def setDirectionCommand (dir : Direction) : Command where
  check := needCtx
  zero := id
  load := id
  micros _ := plain [.gw (dirKind dir)]
  result := id

/-- SET_DIRECTION (R150). -/
def execSetDirection (dir : Direction) (s : State) : Host.Outcome State Fault Refusal :=
  (setDirectionCommand dir).run Config.platform s

/-- SET_LEVEL (R151). -/
def setLevelCommand (lvl : Level) : Command where
  check := needCtx
  zero := id
  load := id
  micros _ := plain [.gw (lvlKind lvl)]
  result := id

/-- SET_LEVEL (R151). -/
def execSetLevel (lvl : Level) (s : State) : Host.Outcome State Fault Refusal :=
  (setLevelCommand lvl).run Config.platform s

/-- RXDATA takes the sampled bit (R152, R192). -/
def sampleToRxdata (s : State) : State := setRxdata (bitByte (levelBit s.seq.sample)) s

/-- READ_LEVEL (R152). -/
def readLevelCommand : Command where
  check := needCtx
  zero := setRxdata 0#8
  load := id
  micros _ := plain [.gr]
  result := sampleToRxdata

/-- READ_LEVEL (R152). -/
def execReadLevel (s : State) : Host.Outcome State Fault Refusal :=
  readLevelCommand.run Config.platform s

end Sys2Proof.Machine
end

