-- ==== Sys2Proof/Machine/Session.lean ====
section
/-! DEFINITION. The session controller's commands: INIT, TEARDOWN, GET_ROMID_CRC_SUPPORT
(44_session.md). -/

namespace Sys2Proof.Machine

/-- INIT's checks: CFG_ACTIVE (R253) before CFG_INVALID (R252). -/
def initCheck (s : State) : ErrCode :=
  if s.ctxValid then .cfgActive
  else if valid s.seq.snapshot then .none
  else .cfgInvalid

/-- INIT stores the snapshot as the active context, in one step, before IDLE (R250, R251). -/
def adoptSnapshot (s : State) : State := { s with ctx := s.seq.snapshot, ctxValid := true }

/-- INIT (R250). -/
def initCommand : Command where
  check := initCheck
  zero := id
  load := adoptSnapshot
  micros _ := plain idleLine
  result := id

/-- INIT (R250 to R253). -/
def execInit (s : State) : Host.Outcome State Fault Refusal :=
  initCommand.run Config.platform s

/-- TEARDOWN ends the context after RELEASE; its fields keep their values (R254). -/
def dropContext (s : State) : State := { s with ctxValid := false }

/-- TEARDOWN (R254). -/
def teardownCommand : Command where
  check := needCtx
  zero := id
  load := id
  micros _ := plain release
  result := dropContext

/-- TEARDOWN (R254). -/
def execTeardown (s : State) : Host.Outcome State Fault Refusal :=
  teardownCommand.run Config.platform s

/-- GET_ROMID_CRC_SUPPORT (R256). -/
def getRcsCommand : Command where
  check := needCtx
  zero := setRxdata 0#8
  load := id
  micros _ := []
  result s := setRxdata (bitByte s.ctx.rcs) s

/-- GET_ROMID_CRC_SUPPORT (R256). -/
def execGetRomidCrcSupport (s : State) : Host.Outcome State Fault Refusal :=
  getRcsCommand.run Config.platform s

end Sys2Proof.Machine
end

