-- ==== Sys2Proof/Machine/Timing.lean ====
section
/-! DEFINITION. The delay commands: DELAY_US and DELAY_MS (41_timing.md R165, R166). Neither checks
CTX_VALID (R111). -/

namespace Sys2Proof.Machine

/-- A command that is one delay of `n` µs. -/
def delayCommand (n : Nat) : Command where
  check := noCheck
  zero := id
  load := id
  micros _ := plain [.delay n]
  result := id

/-- DELAY_US (R165). -/
def execDelayUs (n : BitVec 16) (s : State) : Host.Outcome State Fault Refusal :=
  (delayCommand (delayUsTime n)).run Config.platform s

/-- DELAY_MS (R166): one delay, so the jitter bound applies once. -/
def execDelayMs (n : BitVec 16) (s : State) : Host.Outcome State Fault Refusal :=
  (delayCommand (delayMsTime n)).run Config.platform s

end Sys2Proof.Machine
end

