-- ==== Sys2Proof/Machine/Transport.lean ====
section
/-! DEFINITION. The bit and byte transport: RESET, WRITE_BIT, READ_BIT, WRITE_BYTE, READ_BYTE
(42_transport.md R180 to R203). -/

namespace Sys2Proof.Machine

/-- PRESENCE takes whether the sample was Low (R185, R187). -/
def sampleToPresence (s : State) : State := setPresence (decide (s.seq.sample = .low)) s

/-- RESET (R185). -/
def resetCommand (p : Platform) : Command where
  check := needCtx
  zero := setPresence false
  load := id
  micros _ := plain (rstseq p)
  result := sampleToPresence

/-- RESET (R185). -/
def execReset (s : State) : Host.Outcome State Fault Refusal :=
  (resetCommand Config.platform).run Config.platform s

/-- WRITE_BIT (R189). -/
def writeBitCommand (p : Platform) (bit : Bool) : Command where
  check := needCtx
  zero := id
  load := id
  micros s := plain (wslot p s.ctx bit)
  result := id

/-- WRITE_BIT (R189). -/
def execWriteBit (bit : Bool) (s : State) : Host.Outcome State Fault Refusal :=
  (writeBitCommand Config.platform bit).run Config.platform s

/-- READ_BIT (R192). -/
def readBitCommand (p : Platform) : Command where
  check := needCtx
  zero := setRxdata 0#8
  load := id
  micros s := plain (rslotHead p s.ctx ++ [rslotTail p])
  result := sampleToRxdata

/-- READ_BIT (R192). -/
def execReadBit (s : State) : Host.Outcome State Fault Refusal :=
  (readBitCommand Config.platform).run Config.platform s

/-- `seq.shift <- v` (R200, R201). -/
def loadShift (v : Byte) (s : State) : State := { s with seq := { s.seq with shift := v } }

/-- The eight write slots of a byte, bit 0 first (R200): slot i sends `seq.shift[i]`. -/
def writeSlots (p : Platform) (s : State) : List Micro :=
  bitOrder.flatMap fun i => under i (wslot p s.ctx (byteBit s.seq.shift i))

/-- WRITE_BYTE (R200). -/
def writeByteCommand (p : Platform) (byte : Byte) : Command where
  check := needCtx
  zero := id
  load := loadShift byte
  micros := writeSlots p
  result := id

/-- WRITE_BYTE (R200). -/
def execWriteByte (byte : Byte) (s : State) : Host.Outcome State Fault Refusal :=
  (writeByteCommand Config.platform byte).run Config.platform s

/-- The eight read slots of a byte (R201): slot i puts its bit into `seq.shift[i]` when it ends. -/
def readSlots (p : Platform) (s : State) : List Micro :=
  bitOrder.flatMap fun i => under i (rslotHead p s.ctx) ++ [⟨rslotTail p, some i, true⟩]

/-- RXDATA takes the assembled byte (R201). -/
def shiftToRxdata (s : State) : State := setRxdata s.seq.shift s

/-- READ_BYTE (R201). -/
def readByteCommand (p : Platform) : Command where
  check := needCtx
  zero := setRxdata 0#8
  load := loadShift 0#8
  micros := readSlots p
  result := shiftToRxdata

/-- READ_BYTE (R201). -/
def execReadByte (s : State) : Host.Outcome State Fault Refusal :=
  (readByteCommand Config.platform).run Config.platform s

end Sys2Proof.Machine
end

