-- ==== Sys2Proof/Machine/Dispatch.lean ====
section
/-! DEFINITION. The meaning of each command, one arm per constructor of Instr. -/

namespace Sys2Proof.Machine

/-- What the sequencer does with the accepted command `i` in state `s`. -/
def exec (i : Instr) (s : State) : Host.Outcome State Fault Refusal :=
  match i with
  | .init => Sys2Proof.Machine.execInit s
  | .teardown => Sys2Proof.Machine.execTeardown s
  | .reset => Sys2Proof.Machine.execReset s
  | .writeBit bit => Sys2Proof.Machine.execWriteBit bit s
  | .readBit => Sys2Proof.Machine.execReadBit s
  | .writeByte byte => Sys2Proof.Machine.execWriteByte byte s
  | .readByte => Sys2Proof.Machine.execReadByte s
  | .setDirection dir => Sys2Proof.Machine.execSetDirection dir s
  | .setLevel lvl => Sys2Proof.Machine.execSetLevel lvl s
  | .readLevel => Sys2Proof.Machine.execReadLevel s
  | .delayUs n => Sys2Proof.Machine.execDelayUs n s
  | .delayMs n => Sys2Proof.Machine.execDelayMs n s
  | .crcClear => Sys2Proof.Machine.execCrcClear s
  | .crcUpdate byte => Sys2Proof.Machine.execCrcUpdate byte s
  | .getRomidCrcSupport => Sys2Proof.Machine.execGetRomidCrcSupport s

end Sys2Proof.Machine
end

