-- ==== Sys2Proof/Machine/HostPort.lean ====
section
/-! DEFINITION. The host interface: the register window (20_memory.md R60 to R66), the idle gap (R44),
the block reset (70_reset_and_hazards.md R312), when a host action lands, and the host programs of
30_encoding.md R115 and R116. -/

namespace Sys2Proof.Machine

/-- The registers of the host window (R61). -/
inductive HostReg where
  | CMD
  | STATUS
  | RXDATA
  | CRC
  | CFG_OUT_HIGH_ADDR_LO
  | CFG_OUT_HIGH_ADDR_HI
  | CFG_OUT_HIGH_VAL
  | CFG_OUT_LOW_ADDR_LO
  | CFG_OUT_LOW_ADDR_HI
  | CFG_OUT_LOW_VAL
  | CFG_DIR_OUT_ADDR_LO
  | CFG_DIR_OUT_ADDR_HI
  | CFG_DIR_OUT_VAL
  | CFG_DIR_IN_ADDR_LO
  | CFG_DIR_IN_ADDR_HI
  | CFG_DIR_IN_VAL
  | CFG_IN_ADDR_LO
  | CFG_IN_ADDR_HI
  | CFG_IN_MASK
  | CFG_PIN
  | CFG_VERSION
  | CFG_T_WBL
  | CFG_T_WRI
  | CFG_FLAGS
  deriving DecidableEq, Repr

/-- The offset of a register from P_BASE (R61). -/
def regOffset : HostReg → Nat
  | .CMD => 0x000
  | .STATUS => 0x004
  | .RXDATA => 0x008
  | .CRC => 0x00C
  | .CFG_OUT_HIGH_ADDR_LO => 0x020
  | .CFG_OUT_HIGH_ADDR_HI => 0x024
  | .CFG_OUT_HIGH_VAL => 0x028
  | .CFG_OUT_LOW_ADDR_LO => 0x030
  | .CFG_OUT_LOW_ADDR_HI => 0x034
  | .CFG_OUT_LOW_VAL => 0x038
  | .CFG_DIR_OUT_ADDR_LO => 0x040
  | .CFG_DIR_OUT_ADDR_HI => 0x044
  | .CFG_DIR_OUT_VAL => 0x048
  | .CFG_DIR_IN_ADDR_LO => 0x050
  | .CFG_DIR_IN_ADDR_HI => 0x054
  | .CFG_DIR_IN_VAL => 0x058
  | .CFG_IN_ADDR_LO => 0x060
  | .CFG_IN_ADDR_HI => 0x064
  | .CFG_IN_MASK => 0x068
  | .CFG_PIN => 0x070
  | .CFG_VERSION => 0x074
  | .CFG_T_WBL => 0x078
  | .CFG_T_WRI => 0x07C
  | .CFG_FLAGS => 0x080

/-- Every register of the window (R61). -/
def allRegs : List HostReg :=
  [.CMD, .STATUS, .RXDATA, .CRC, .CFG_OUT_HIGH_ADDR_LO, .CFG_OUT_HIGH_ADDR_HI, .CFG_OUT_HIGH_VAL,
    .CFG_OUT_LOW_ADDR_LO, .CFG_OUT_LOW_ADDR_HI, .CFG_OUT_LOW_VAL, .CFG_DIR_OUT_ADDR_LO,
    .CFG_DIR_OUT_ADDR_HI, .CFG_DIR_OUT_VAL, .CFG_DIR_IN_ADDR_LO, .CFG_DIR_IN_ADDR_HI,
    .CFG_DIR_IN_VAL, .CFG_IN_ADDR_LO, .CFG_IN_ADDR_HI, .CFG_IN_MASK, .CFG_PIN, .CFG_VERSION,
    .CFG_T_WBL, .CFG_T_WRI, .CFG_FLAGS]

/-- The register at an offset; `none` where the window is unmapped (R61, R64). -/
def regAt (off : Nat) : Option HostReg := allRegs.find? fun r => regOffset r == off

/-- The size of the window in bytes (R60). -/
def windowSize : Nat := 0x100

/-- What a load of a register returns (R61). -/
def readReg (s : State) : HostReg → Word
  | .CMD => 0#32
  | .STATUS => statusWord s
  | .RXDATA => rxdataWord s
  | .CRC => crcWord s
  | .CFG_OUT_HIGH_ADDR_LO => s.staging.outHighAddrLo
  | .CFG_OUT_HIGH_ADDR_HI => s.staging.outHighAddrHi
  | .CFG_OUT_HIGH_VAL => s.staging.outHighVal
  | .CFG_OUT_LOW_ADDR_LO => s.staging.outLowAddrLo
  | .CFG_OUT_LOW_ADDR_HI => s.staging.outLowAddrHi
  | .CFG_OUT_LOW_VAL => s.staging.outLowVal
  | .CFG_DIR_OUT_ADDR_LO => s.staging.dirOutAddrLo
  | .CFG_DIR_OUT_ADDR_HI => s.staging.dirOutAddrHi
  | .CFG_DIR_OUT_VAL => s.staging.dirOutVal
  | .CFG_DIR_IN_ADDR_LO => s.staging.dirInAddrLo
  | .CFG_DIR_IN_ADDR_HI => s.staging.dirInAddrHi
  | .CFG_DIR_IN_VAL => s.staging.dirInVal
  | .CFG_IN_ADDR_LO => s.staging.inAddrLo
  | .CFG_IN_ADDR_HI => s.staging.inAddrHi
  | .CFG_IN_MASK => s.staging.inMask
  | .CFG_PIN => s.staging.pin
  | .CFG_VERSION => s.staging.version
  | .CFG_T_WBL => s.staging.tWbl
  | .CFG_T_WRI => s.staging.tWri
  | .CFG_FLAGS => flagsWord s.staging

/-- A store to CMD: accepted (R108), or dropped while BUSY = 1 (R106). -/
def writeCmd (w : Word) (s : State) : State := if s.seq.busy then drop w s else accept w s

/-- A store to STATUS: bit 11 clears OVR, every other bit is ignored (R30, R65). -/
def writeStatus (w : Word) (s : State) : State := if w.getLsbD 11 then { s with ovr := false } else s

/-- The staging registers after a store to one of them; CFG_FLAGS takes bit 0 only (R24, R65). -/
def writeStaging (g : Staging) (w : Word) : HostReg → Staging
  | .CFG_OUT_HIGH_ADDR_LO => { g with outHighAddrLo := w }
  | .CFG_OUT_HIGH_ADDR_HI => { g with outHighAddrHi := w }
  | .CFG_OUT_HIGH_VAL => { g with outHighVal := w }
  | .CFG_OUT_LOW_ADDR_LO => { g with outLowAddrLo := w }
  | .CFG_OUT_LOW_ADDR_HI => { g with outLowAddrHi := w }
  | .CFG_OUT_LOW_VAL => { g with outLowVal := w }
  | .CFG_DIR_OUT_ADDR_LO => { g with dirOutAddrLo := w }
  | .CFG_DIR_OUT_ADDR_HI => { g with dirOutAddrHi := w }
  | .CFG_DIR_OUT_VAL => { g with dirOutVal := w }
  | .CFG_DIR_IN_ADDR_LO => { g with dirInAddrLo := w }
  | .CFG_DIR_IN_ADDR_HI => { g with dirInAddrHi := w }
  | .CFG_DIR_IN_VAL => { g with dirInVal := w }
  | .CFG_IN_ADDR_LO => { g with inAddrLo := w }
  | .CFG_IN_ADDR_HI => { g with inAddrHi := w }
  | .CFG_IN_MASK => { g with inMask := w }
  | .CFG_PIN => { g with pin := w }
  | .CFG_VERSION => { g with version := w }
  | .CFG_T_WBL => { g with tWbl := w }
  | .CFG_T_WRI => { g with tWri := w }
  | .CFG_FLAGS => { g with flag0 := w.getLsbD 0 }
  | .CMD | .STATUS | .RXDATA | .CRC => g

/-- What a store to a register does (R65). Stores to RXDATA and CRC are ignored. -/
def writeReg (r : HostReg) (w : Word) (s : State) : State :=
  match r with
  | .CMD => writeCmd w s
  | .STATUS => writeStatus w s
  | .RXDATA | .CRC => s
  | r => { s with staging := writeStaging s.staging w r }

/-- An aligned 32-bit load at an offset; an unmapped offset reads 0 (R64). -/
def readAt (off : Nat) (s : State) : Word :=
  match regAt off with
  | some r => readReg s r
  | none => 0#32

/-- An aligned 32-bit store at an offset; one to an unmapped offset is ignored (R64). -/
def writeAt (off : Nat) (w : Word) (s : State) : State :=
  match regAt off with
  | some r => writeReg r w s
  | none => s

/-- The byte of the window at an offset: little-endian (R63). A view; no access of one byte is
admitted (R62). -/
def windowByte (off : Nat) (s : State) : Byte :=
  (readAt (4 * (off / 4)) s).extractLsb' (8 * (off % 4)) 8

/-- The offset of an admitted host access, or why it is refused (R60, R62, K22). -/
def windowOffset (p : Platform) (addr size : Nat) : Except Refusal Nat :=
  if addr < p.P_BASE ∨ p.P_BASE + windowSize ≤ addr then .error .hostAccessOutsideWindow
  else if size ≠ 4 then .error .hostAccessWidth
  else if (addr - p.P_BASE) % 4 ≠ 0 then .error .hostAccessMisaligned
  else .ok (addr - p.P_BASE)

/-- An idle gap of `d` µs (R44). -/
def idleGap (d : Nat) (s : State) : State :=
  emit (.idle d (s.now + d)) { s with now := s.now + d }

/-- The block reset (R312): every state of R310 takes its reset value, a running command is abandoned.
The free draws go on, the host keeps its coming actions and what it has read, and the oracle learns
that a reset has happened (the slaves are not reset, R313). -/
def blockReset (s : State) : State :=
  { State.reset with draws := s.draws, inbox := s.inbox, got := s.got, epoch := s.epoch + 1 }

/-- A host action takes effect (R80, R90, R312). -/
def hostAct (p : Platform) (a : HostAction) (s : State) : Host.Outcome State Fault Refusal :=
  match a with
  | .load addr size =>
    match windowOffset p addr size with
    | .ok off => .next { s with got := s.got ++ [readAt off s] }
    | .error r => .refused r
  | .store addr size data =>
    match windowOffset p addr size with
    | .ok off => .next (writeAt off data s)
    | .error r => .refused r
  | .wait => .next s
  | .idle d => .next (idleGap d s)
  | .blockReset => .next (blockReset s)

/-- The host action that takes effect at this step, if one does, and the state without it in the
inbox: the next one, once no command runs or it is due inside the running one. -/
def takeAction (s : State) : Option (HostAction × State) :=
  match s.inbox with
  | [] => none
  | e :: rest => if !s.seq.busy || actionDue s then some (e.act, { s with inbox := rest }) else none

/-! ### Host programs (R115, R116) -/

/-- A store to a register (`cfg REG = w`, R115). -/
def hostStore (p : Platform) (r : HostReg) (w : Word) : HostEntry :=
  ⟨some 0, .store (p.P_BASE + regOffset r) 4 w⟩

/-- A load of a register (`r <- REG`, R115). -/
def hostLoad (p : Platform) (r : HostReg) : HostEntry :=
  ⟨some 0, .load (p.P_BASE + regOffset r) 4⟩

/-- The host's `wait` (R115). -/
def hostWait : HostEntry := ⟨some 0, .wait⟩

/-- A command of an expansion, followed by `wait` (R116). -/
def hostCommand (p : Platform) (i : Instr) : List HostEntry :=
  [hostStore p .CMD (encode i), hostWait]

/-- Commands of an expansion, in order (R116). -/
def hostCommands (p : Platform) (is : List Instr) : List HostEntry := is.flatMap (hostCommand p)

/-- The pseudo-instructions of R116. -/
inductive Pseudo where
  /-- `compute_crc8 b0, ..., bk-1`: the result is bits [7:0] of the last value read. -/
  | computeCrc8 (bytes : List Byte)
  /-- `romid_crc_valid b0, ..., bk-1`: the result is bit 4 of the last value read. -/
  | romidCrcValid (bytes : List Byte)
  /-- `wbytes b0, ..., bk-1`. -/
  | wbytes (bytes : List Byte)
  /-- `rbytes k`: the results are the last k values read, first byte first. -/
  | rbytes (k : Nat)
  /-- `presence`: the result is bit 3 of the last value read. -/
  | presence
  /-- `idle`. -/
  | idle
  deriving DecidableEq, Repr

/-- The expansion of a pseudo-instruction into host actions (R116). -/
def expand (p : Platform) : Pseudo → List HostEntry
  | .computeCrc8 bs => hostCommands p (.crcClear :: bs.map .crcUpdate) ++ [hostLoad p .CRC]
  | .romidCrcValid bs => hostCommands p (.crcClear :: bs.map .crcUpdate) ++ [hostLoad p .STATUS]
  | .wbytes bs => hostCommands p (bs.map .writeByte)
  | .rbytes k => (List.replicate k (hostCommand p .readByte ++ [hostLoad p .RXDATA])).flatten
  | .presence => hostCommand p .reset ++ [hostLoad p .STATUS]
  | .idle => hostCommands p [.setLevel .high, .setDirection .output]

end Sys2Proof.Machine
end

