-- ==== Sys2Proof/Machine/Step.lean ====
section
/-! DEFINITION. One step of OWM and its host. -/

namespace Sys2Proof.Machine

/-- One step. A host action that is due takes effect (R80); else, if a command is running, the
sequencer decodes its word and runs it (R111), up to completion or to the next host action that lands
inside it; else OWM is idle and the host has nothing to do: the run has ended (R112) and the state
stays. -/
def step (s : State) : Host.Outcome State Fault Refusal :=
  match takeAction s with
  | some (a, s') => hostAct Config.platform a s'
  | none =>
    if s.seq.busy then
      match decode s.seq.word with
      | .ok i => exec i s
      | .error _ => execIllegal s
    else .next s

/-- `s` with the command word `w` accepted from the host (R108) and no host action to come before its
completion: the sequencer's next step decodes and runs it. OWM fetches nothing (R83); this stands for
the host's store to CMD. -/
def State.withFetchWord (s : State) (nbits w : Nat) : State :=
  { accept (BitVec.ofNat 32 (w % 2 ^ nbits)) s with inbox := [] }

end Sys2Proof.Machine
end

