-- ==== Sys2Proof/Safety.lean ====
section
/-! DEFINITION. The terms claims are stated in: a command about to run undisturbed, the meaning of a
command on any platform, what the history and the port say, the invariant of every step, and the
durations of 70_reset_and_hazards.md R335. -/

namespace Sys2Proof.Machine

/-- The command of `i` on platform `p`. -/
def commandOf (p : Platform) : Instr → Command
  | .init => initCommand
  | .teardown => teardownCommand
  | .reset => resetCommand p
  | .writeBit bit => writeBitCommand p bit
  | .readBit => readBitCommand p
  | .writeByte byte => writeByteCommand p byte
  | .readByte => readByteCommand p
  | .setDirection dir => setDirectionCommand dir
  | .setLevel lvl => setLevelCommand lvl
  | .readLevel => readLevelCommand
  | .delayUs n => delayCommand (delayUsTime n)
  | .delayMs n => delayCommand (delayMsTime n)
  | .crcClear => crcClearCommand
  | .crcUpdate byte => crcUpdateCommand byte
  | .getRomidCrcSupport => getRcsCommand

/-- The meaning of `i` on platform `p`; `exec` is this on `Config.platform` (`exec_eq`, Laws/Ops.lean). A claim
that needs a premise on the slaves or the pad is stated with it. -/
def execOn (p : Platform) (i : Instr) (s : State) : Host.Outcome State Fault Refusal :=
  (commandOf p i).run p s

/-- A command is about to run from its first check, and no host action lands before it completes. -/
def Fresh (s : State) : Prop := s.seq.step = 0 ∧ stopAt s = none

/-- The commands that check CTX_VALID (R111). -/
def needsCtx : Instr → Bool
  | .teardown | .reset | .writeBit _ | .readBit | .writeByte _ | .readByte | .setDirection _
  | .setLevel _ | .readLevel | .getRomidCrcSupport => true
  | .init | .delayUs _ | .delayMs _ | .crcClear | .crcUpdate _ => false

/-- The delay commands, the only ones that run primitives without a context. -/
def isDelay : Instr → Bool
  | .delayUs _ | .delayMs _ => true
  | _ => false

/-! ### Reading the history -/

/-- The time of an event (R45). -/
def eventTime : Event → Nat
  | .cmdStart _ t | .cmdEnd _ _ t | .drive _ t | .sample _ t | .wait _ _ t | .dropped _ t
  | .idle _ t => t

/-- The line record after an event (R27, R144). -/
def trackLine (l : Line) : Event → Line
  | .drive k _ => driveLine l k
  | .cmdStart .. | .cmdEnd .. | .sample .. | .wait .. | .dropped .. | .idle .. => l

/-- An event that stands for a GPIO access (R45). -/
def isAccess : Event → Bool
  | .drive .. | .sample .. => true
  | _ => false

/-- An acceptance. -/
def isStart : Event → Bool
  | .cmdStart .. => true
  | _ => false

/-- A completion. -/
def isEnd : Event → Bool
  | .cmdEnd .. => true
  | _ => false

/-- The level of a Sample event. -/
def sampled : Event → Option Level
  | .sample l _ => some l
  | _ => none

/-- A word dropped under BUSY. -/
def isDropped : Event → Bool
  | .dropped .. => true
  | _ => false

/-- The word of an acceptance. -/
def startWord : Event → Option Word
  | .cmdStart w _ => some w
  | _ => none

/-- An event but for what a host word dropped meanwhile may change of it: the level of a sample, which
the environment answers over a history that holds the Dropped event. -/
def undisturbed : Event → Option Event
  | .sample _ t => some (.sample .low t)
  | .dropped .. => none
  | e => some e

/-- A wire event without its time: what was driven, and what delay was asked for. -/
inductive Shape where
  | drive (k : DriveKind)
  | sample
  | wait (n : Nat)
  deriving DecidableEq, Repr

/-- The shape of an event that a command's primitives emit. -/
def shapeOf : Event → Option Shape
  | .drive k _ => some (.drive k)
  | .sample _ _ => some .sample
  | .wait n _ _ => some (.wait n)
  | _ => none

/-- What a write slot puts on the wire (R184, R190, R191). -/
def writeSlotShape (low rec : Nat) : List Shape :=
  [.drive .outLow, .drive .dirOut, .wait low, .drive .dirIn, .wait rec]

/-- What a read slot puts on the wire (R184). -/
def readSlotShape (low settle rec : Nat) : List Shape :=
  [.drive .outLow, .drive .dirOut, .wait low, .drive .dirIn, .wait settle, .sample, .wait rec]

/-! ### The invariant -/

/-- While a command runs, `seq.op` is its opcode, ERR is NONE and DONE is 0 (R108). -/
def lifecycleOk (s : State) : Bool :=
  !s.seq.busy
    || (s.seq.op == opField s.seq.word && decide (s.err = .none) && !s.done)

/-- A command that has begun to run primitives has a context, or is a delay (R77, R111). -/
def runningOk (s : State) : Bool :=
  !s.seq.busy || s.seq.step == 0 || s.ctxValid ||
    match decode s.seq.word with
    | .ok i => isDelay i
    | .error _ => false

/-- The invariant of every step: a valid context passed INIT's validation (R252); the lifecycle (R108)
and the context rule (R77) hold; the history is in time order and no event lies after `now` (R45); the
line record is what the history's drives made it (R27); each GPIO access has its event (R45, R75, R76);
each acceptance but the running command's has its completion (R42). -/
structure Inv (s : State) : Prop where
  ctx_valid : s.ctxValid = true → valid s.ctx = true
  lifecycle : lifecycleOk s = true
  running : runningOk s = true
  ordered : s.hist.Pairwise fun a b => eventTime a ≤ eventTime b
  past : ∀ e ∈ s.hist, eventTime e ≤ s.now
  line_tracked : s.line = s.hist.foldl trackLine Line.reset
  accesses : s.port.length = s.hist.countP isAccess
  completions : s.hist.countP isStart = s.hist.countP isEnd + s.seq.busy.toNat

/-! ### What is visible -/

/-- The state with `ctx` blanked while no context is valid: no rule reads it then (R21, R23). -/
def hideContext (s : State) : State := if s.ctxValid then s else { s with ctx := Context.zero }

/-- An outcome with its next state seen through `f`. -/
def seen (f : State → State) : Host.Outcome State Fault Refusal → Host.Outcome State Fault Refusal
  | .next s => .next (f s)
  | .fault r => .fault r
  | .refused r => .refused r

/-- The staging registers (R24). -/
def isStagingReg : HostReg → Bool
  | .CMD | .STATUS | .RXDATA | .CRC => false
  | _ => true

/-- Where a port access goes and what it writes, if it writes (R75, R76). -/
def portTarget : PortAccess → Addr × Option Word
  | .write a d => (a, some d)
  | .read a _ => (a, none)

/-! ### The checks a command passes, and the code it ends with (R284) -/

/-- The error code of a command, its checks made in the order of R284. -/
def expectedErr (s : State) (g : Context) : Instr → ErrCode
  | .init => if s.ctxValid then .cfgActive else if valid g then .none else .cfgInvalid
  | i => if needsCtx i && !s.ctxValid then .cfgUninit else .none

/-- Every check of the command passes (R111): a command that needs a context has one, INIT has none
and a snapshot that R252 accepts. -/
def Passes (i : Instr) (s : State) : Prop := expectedErr s s.seq.snapshot i = .none

/-- `b` lies between `a + n` and `a + n + slack` (R142, R161). -/
def Within (a n slack b : Nat) : Prop := a + n ≤ b ∧ b ≤ a + n + slack

/-- The events a command's primitives emit from time `a` to time `b`, without a gap: each access ends
at most T_GPIO_MAX after the event before it (R142), each delay after the duration it carries, which
lies in its range (R161), and the last event is at `b`. -/
def Stamped (p : Platform) (a : Nat) : List Event → Nat → Prop
  | [], b => a = b
  | .drive _ t :: es, b | .sample _ t :: es, b => Within a 0 p.T_GPIO_MAX t ∧ Stamped p t es b
  | .wait n d t :: es, b => Within n 0 p.DELAY_JITTER d ∧ t = a + d ∧ Stamped p t es b
  | .cmdStart .. :: _, _ | .cmdEnd .. :: _, _ | .dropped .. :: _, _ | .idle .. :: _, _ => False

/-! ### The CRC as a long division (R220) -/

/-- The bits of a message in transmission order (R220). -/
def messageBits (bs : List Byte) : List Bool := bs.flatMap fun v => bitOrder.map (byteBit v)

/-- The coefficients of `x^8 + x^5 + x^4 + 1` below `x^8`, from `x^7` down (R221). -/
def polyBelow : List Bool := [false, false, true, true, false, false, false, true]

/-- One subtraction of the divisor: its leading term has met the dividend's, the rest is XORed. -/
def subtractPoly (r : List Bool) : List Bool :=
  List.zipWith (· ^^ ·) (r.take 8) polyBelow ++ r.drop 8

/-- `n` steps of the long division over GF(2), coefficients from the highest degree down. -/
def longDivision : Nat → List Bool → List Bool
  | 0, r => r
  | _ + 1, [] => []
  | n + 1, b :: r => longDivision n (if b then subtractPoly r else r)

/-! ### The loopback environment (R202) -/

/-- The byte of a history's last accepted WRITE_BYTE and the levels sampled since, oldest event first. -/
def echoTrack (a : Option Byte × Nat) : Event → Option Byte × Nat
  | .cmdStart w _ =>
    match decode w with
    | .ok (.writeByte v) => (some v, 0)
    | _ => a
  | .sample _ _ => (a.1, a.2 + 1)
  | _ => a

/-- `Echo` of 95_test_vectors.md section 0: sample k after the last WRITE_BYTE answers its bit
`k mod 8`. -/
def echoEnv (h : List Event) : Level :=
  match h.foldl echoTrack (none, 0) with
  | (some v, k) => if v.getLsbD (k % 8) then .high else .low
  | (none, _) => .high

/-! ### Durations (R335) -/

/-- The least bus time of a command that passes its checks (R335). -/
def minTime (p : Platform) (c : Context) : Instr → Nat
  | .reset => p.T_RSTL + p.T_PDS + p.T_RSTREC
  | .writeBit b => slotLow p c b + slotRec p b
  | .readBit => p.T_RL + c.tWri.toNat + p.T_RREC
  | .writeByte v => (bitOrder.map fun i => slotLow p c (byteBit v i) + slotRec p (byteBit v i)).sum
  | .readByte => 8 * (p.T_RL + c.tWri.toNat + p.T_RREC)
  | .delayUs n => n.toNat
  | .delayMs n => 1000 * n.toNat
  | .init | .teardown | .setDirection _ | .setLevel _ | .readLevel | .crcClear | .crcUpdate _
  | .getRomidCrcSupport => 0

/-- How many delays a command makes (R335, the multiple of J). -/
def delayCount : Instr → Nat
  | .reset | .readBit => 3
  | .writeBit _ => 2
  | .writeByte _ => 16
  | .readByte => 24
  | .delayUs _ | .delayMs _ => 1
  | .init | .teardown | .setDirection _ | .setLevel _ | .readLevel | .crcClear | .crcUpdate _
  | .getRomidCrcSupport => 0

/-- How many GPIO accesses a command makes (R335, the multiple of G). -/
def accessCount : Instr → Nat
  | .init => 2
  | .teardown | .setDirection _ | .setLevel _ | .readLevel => 1
  | .reset | .readBit => 4
  | .writeBit _ => 3
  | .writeByte _ => 24
  | .readByte => 32
  | .delayUs _ | .delayMs _ | .crcClear | .crcUpdate _ | .getRomidCrcSupport => 0

/-- How many primitives a command makes: its GPIO accesses and its delays (R335, R40). -/
def primCount (i : Instr) : Nat := accessCount i + delayCount i

end Sys2Proof.Machine
end

