-- ==== Sys2Proof/Certificates/Slice0/Obligations.lean ====
section
/-! DEFINITION. What is to be proved of the model, stated from the numbered rules of spec/. -/

open Sys2Proof Sys2Proof.Machine

/-! ### Encoding -/

/-- R103, R104, R107, R63: the decoder reads back every command from its word, and from the word's bytes. -/
def Obligations.DecodeReadsEveryEncodedCommand : Prop :=
  ∀ (i : Instr) (rest : List Byte), decode (encode i) = .ok i ∧
    decodeBytes (wordBytes (encode i) ++ rest) = .ok (i, rest)

/-- R103, R105: a legal word is the word of its command, so no two words share a meaning. -/
def Obligations.EveryLegalWordIsItsCommandsWord : Prop :=
  ∀ (w : Word) (i : Instr), decode w = .ok i → encode i = w

/-- R105: which words are legal, and what an accepted illegal word does. -/
def Obligations.LegalWordsAndIllegalCompletion : Prop :=
  (∀ w : Word, (∃ i, decode w = .ok i) ↔
    0x01 ≤ (opField w).toNat ∧ (opField w).toNat ≤ 0x0F ∧
      ∃ f, formatOf (opField w) = some f ∧ w &&& f.mask = (opField w).setWidth 32) ∧
  ∀ s : State, s.seq.busy = true → actionDue s = false → (∀ i, decode s.seq.word ≠ .ok i) →
    step s = .next { s with
      err := .illegal
      done := true
      seq := { s.seq with busy := false }
      hist := s.hist ++ [.cmdEnd s.seq.op .illegal s.now] }

/-- 95_test_vectors.md section 2, R103: words written out from the formats, one of each family. -/
def Obligations.WrittenOutWordsDecode : Prop :=
  decode 0x00000001#32 = .ok .init ∧ decode 0x00000002#32 = .ok .teardown ∧
  decode 0x00000003#32 = .ok .reset ∧ decode 0x00000104#32 = .ok (.writeBit true) ∧
  decode 0x00A50006#32 = .ok (.writeByte 0xA5#8) ∧
  decode 0x00000108#32 = .ok (.setDirection .output) ∧
  decode 0x00000009#32 = .ok (.setLevel .low) ∧ decode 0x8000000C#32 = .ok (.delayMs 32768#16) ∧
  decode 0x0001000E#32 = .ok (.crcUpdate 0x01#8) ∧
  decode 0x0000010F#32 = .error (.reservedBits 0x0F#5) ∧
  decode 0x00000010#32 = .error (.illegalOpcode 0x10#5)

/-- R115: the word of every assembler line, and the operands an assembler refuses. -/
def Obligations.AssemblerWordsAndRefusals : Prop :=
  (∀ l : AsmLine, assemble l = none ↔
    (∃ n, (l = .wbit n ∧ 1 < n) ∨ ((l = .wbyte n ∨ l = .crcUpd n) ∧ 0xFF < n) ∨
      ((l = .delayUs n ∨ l = .delayMs n) ∧ 0xFFFF < n))) ∧
  (∀ v ≤ 0xFF, (assemble (.wbyte v)).map encode = some (0x06#32 ||| BitVec.ofNat 32 v <<< 16) ∧
    (assemble (.crcUpd v)).map encode = some (0x0E#32 ||| BitVec.ofNat 32 v <<< 16)) ∧
  (∀ n ≤ 0xFFFF, (assemble (.delayUs n)).map encode = some (0x0B#32 ||| BitVec.ofNat 32 n <<< 16) ∧
    (assemble (.delayMs n)).map encode = some (0x0C#32 ||| BitVec.ofNat 32 n <<< 16)) ∧
  [AsmLine.init, .teardown, .reset, .wbit 0, .wbit 1, .rbit, .rbyte, .setdir .input,
    .setdir .output, .setlvl .low, .setlvl .high, .rdlvl, .crcClr, .getrcs].map
      (fun l => (assemble l).map encode) =
    [0x01#32, 0x02#32, 0x03#32, 0x04#32, 0x104#32, 0x05#32, 0x07#32, 0x08#32, 0x108#32, 0x09#32,
      0x109#32, 0x0A#32, 0x0D#32, 0x0F#32].map some

/-! ### Steps -/

/-- R108, R111: a step of a running command, with no host action due, is `exec` of the command its
word decodes to, and nothing else. -/
def Obligations.StepRunsTheDecodedCommand : Prop :=
  ∀ (s : State) (i : Instr), s.seq.busy = true → actionDue s = false →
    decode s.seq.word = .ok i → step s = exec i s

/-- R80, R112, R115: a host action takes effect before the sequencer goes on, once no command runs, or
once the running command has executed the primitives it is to land after. A wait and an idle gap do not
take effect while a command runs, nor does an action due later: the command goes on. A wait changes
nothing. That an access may land between a command's primitives is log 2, that an idle gap does not is
log 11, what a wait is log 20; that with nothing to come and nothing running the step gives the same
state is log 17. -/
def Obligations.HostActionsLandInOrder : Prop :=
  (∀ (s : State) (due : Option Nat) (a : HostAction) (rest : List HostEntry),
    s.inbox = ⟨due, a⟩ :: rest →
    (s.seq.busy = false ∨
      ∃ k, due = some k ∧ k ≤ s.seq.step ∧ a ≠ .wait ∧ ∀ d, a ≠ .idle d) →
    takeAction s = some (a, { s with inbox := rest }) ∧
      step s = hostAct Config.platform a { s with inbox := rest }) ∧
  (∀ (s : State) (due : Option Nat) (a : HostAction) (rest : List HostEntry) (i : Instr),
    s.inbox = ⟨due, a⟩ :: rest → s.seq.busy = true → decode s.seq.word = .ok i →
    (a = .wait ∨ (∃ d, a = .idle d) ∨ due = none ∨ ∃ k, due = some k ∧ s.seq.step < k) →
    takeAction s = none ∧ step s = exec i s) ∧
  (∀ (s : State) (due : Option Nat) (rest : List HostEntry),
    s.inbox = ⟨due, .wait⟩ :: rest → s.seq.busy = false →
    step s = .next { s with inbox := rest }) ∧
  ∀ s : State, s.seq.busy = false → s.inbox = [] → step s = .next s

/-- R108, R251: acceptance of a command word, and the snapshot of the staging registers, field by field.
That every other word than INIT's leaves the snapshot alone is the model's reading (log 21). -/
def Obligations.CmdStoreIsAcceptedWhenIdle : Prop :=
  (∀ (s s' : State) (w : Word), takeAction s = some (.store Config.P_BASE 4 w, s') →
    s'.seq.busy = false →
    step s = .next { s' with
      done := false
      err := .none
      seq := { s'.seq with
        busy := true
        word := w
        op := w.extractLsb' 0 5
        step := 0
        snapshot := if w = 0x00000001#32 then snapshotOf s'.staging else s'.seq.snapshot }
      hist := s'.hist ++ [.cmdStart w s'.now] }) ∧
  ∀ s : State, snapshotOf s.staging = {
    aOutHigh := readReg s .CFG_OUT_HIGH_ADDR_HI ++ readReg s .CFG_OUT_HIGH_ADDR_LO
    vOutHigh := readReg s .CFG_OUT_HIGH_VAL
    aOutLow := readReg s .CFG_OUT_LOW_ADDR_HI ++ readReg s .CFG_OUT_LOW_ADDR_LO
    vOutLow := readReg s .CFG_OUT_LOW_VAL
    aDirOut := readReg s .CFG_DIR_OUT_ADDR_HI ++ readReg s .CFG_DIR_OUT_ADDR_LO
    vDirOut := readReg s .CFG_DIR_OUT_VAL
    aDirIn := readReg s .CFG_DIR_IN_ADDR_HI ++ readReg s .CFG_DIR_IN_ADDR_LO
    vDirIn := readReg s .CFG_DIR_IN_VAL
    aIn := readReg s .CFG_IN_ADDR_HI ++ readReg s .CFG_IN_ADDR_LO
    mIn := readReg s .CFG_IN_MASK
    pin := readReg s .CFG_PIN
    version := readReg s .CFG_VERSION
    tWbl := readReg s .CFG_T_WBL
    tWri := readReg s .CFG_T_WRI
    rcs := (readReg s .CFG_FLAGS).getLsbD 0 }

/-- R106: a command word written while BUSY = 1 is dropped, whatever it is; and OVR, once set, stays
until a host store to STATUS with bit 11 = 1, or a block reset (R312). -/
def Obligations.CmdStoreIsDroppedWhenBusy : Prop :=
  (∀ (s s' : State) (w : Word), takeAction s = some (.store Config.P_BASE 4 w, s') →
    s'.seq.busy = true →
    step s = .next { s' with ovr := true, hist := s'.hist ++ [.dropped w s'.now] }) ∧
  ∀ s t : State, step s = .next t → s.ovr = true → t.ovr = false →
    (∃ w s', takeAction s = some (.store (Config.P_BASE + 4) 4 w, s') ∧ w.getLsbD 11 = true) ∨
      ∃ s', takeAction s = some (.blockReset, s')

/-- R24, R61, R65: a store to a staging register is read back, bit 0 alone of CFG_FLAGS; every other
register and every other field keeps its value. The second clause names the register at each offset. -/
def Obligations.StagingStoreChangesOneRegister : Prop :=
  (∀ (s s' : State) (r : HostReg) (w : Word), isStagingReg r = true →
    takeAction s = some (.store (Config.P_BASE + regOffset r) 4 w, s') →
    ∃ g, step s = .next { s' with staging := g } ∧
      readReg { s' with staging := g } r = (if r = .CFG_FLAGS then w &&& 1#32 else w) ∧
      ∀ r', r' ≠ r → readReg { s' with staging := g } r' = readReg s' r') ∧
  ∀ (s s' : State) (off : Nat) (w : Word) (g : Staging),
    takeAction s = some (.store (Config.P_BASE + off) 4 w, s') →
    (off, g) ∈ [
      (0x020, { s'.staging with outHighAddrLo := w }),
      (0x024, { s'.staging with outHighAddrHi := w }),
      (0x028, { s'.staging with outHighVal := w }),
      (0x030, { s'.staging with outLowAddrLo := w }),
      (0x034, { s'.staging with outLowAddrHi := w }),
      (0x038, { s'.staging with outLowVal := w }),
      (0x040, { s'.staging with dirOutAddrLo := w }),
      (0x044, { s'.staging with dirOutAddrHi := w }),
      (0x048, { s'.staging with dirOutVal := w }),
      (0x050, { s'.staging with dirInAddrLo := w }),
      (0x054, { s'.staging with dirInAddrHi := w }),
      (0x058, { s'.staging with dirInVal := w }),
      (0x060, { s'.staging with inAddrLo := w }),
      (0x064, { s'.staging with inAddrHi := w }),
      (0x068, { s'.staging with inMask := w }),
      (0x070, { s'.staging with pin := w }),
      (0x074, { s'.staging with version := w }),
      (0x078, { s'.staging with tWbl := w }),
      (0x07C, { s'.staging with tWri := w }),
      (0x080, { s'.staging with flag0 := w.getLsbD 0 })] →
    step s = .next { s' with staging := g }

/-- R61, R65: a load returns the register at its offset and has no side effect. The second clause is the
register map, offset by offset. -/
def Obligations.LoadsReturnTheRegisterAtTheirOffset : Prop :=
  (∀ (s s' : State) (r : HostReg),
    takeAction s = some (.load (Config.P_BASE + regOffset r) 4, s') →
    step s = .next { s' with got := s'.got ++ [readReg s' r] }) ∧
  ∀ (s s' : State) (off : Nat) (v : Word),
    takeAction s = some (.load (Config.P_BASE + off) 4, s') →
    (off, v) ∈ [
      (0x000, 0#32), (0x004, statusWord s'), (0x008, s'.rxdata.setWidth 32),
      (0x00C, s'.crcCount ++ 0#8 ++ s'.crcAcc),
      (0x020, s'.staging.outHighAddrLo), (0x024, s'.staging.outHighAddrHi),
      (0x028, s'.staging.outHighVal),
      (0x030, s'.staging.outLowAddrLo), (0x034, s'.staging.outLowAddrHi),
      (0x038, s'.staging.outLowVal),
      (0x040, s'.staging.dirOutAddrLo), (0x044, s'.staging.dirOutAddrHi),
      (0x048, s'.staging.dirOutVal),
      (0x050, s'.staging.dirInAddrLo), (0x054, s'.staging.dirInAddrHi),
      (0x058, s'.staging.dirInVal),
      (0x060, s'.staging.inAddrLo), (0x064, s'.staging.inAddrHi), (0x068, s'.staging.inMask),
      (0x070, s'.staging.pin), (0x074, s'.staging.version),
      (0x078, s'.staging.tWbl), (0x07C, s'.staging.tWri),
      (0x080, if s'.staging.flag0 then 1#32 else 0#32)] →
    step s = .next { s' with got := s'.got ++ [v] }

/-- R30: the fields of STATUS, the store that clears OVR, and the reset value. -/
def Obligations.StatusFieldsAndClear : Prop :=
  (∀ s : State,
    (statusWord s).getLsbD 0 = s.seq.busy ∧ (statusWord s).getLsbD 1 = s.done ∧
    (statusWord s).getLsbD 2 = s.ctxValid ∧ (statusWord s).getLsbD 3 = s.presence ∧
    ((statusWord s).getLsbD 4 = true ↔ s.crcCount ≠ 0#16 ∧ s.crcAcc = 0#8) ∧
    (statusWord s).getLsbD 5 = false ∧
    ((statusWord s).getLsbD 6 = true ↔ s.line.dir = .output) ∧
    ((statusWord s).getLsbD 7 = true ↔ s.line.lvl = .high) ∧
    (statusWord s).extractLsb' 8 3 = (match s.err with
      | .none => 0#3
      | .cfgUninit => 1#3
      | .cfgInvalid => 2#3
      | .cfgActive => 3#3
      | .illegal => 4#3) ∧
    (statusWord s).getLsbD 11 = s.ovr ∧ (statusWord s).extractLsb' 12 20 = 0#20) ∧
  (∀ (s s' : State) (w : Word), takeAction s = some (.store (Config.P_BASE + 4) 4 w, s') →
    step s = .next { s' with ovr := s'.ovr && !w.getLsbD 11 }) ∧
  statusWord State.reset = 0x00000080#32

/-- R33, R34, R29, R65: RXDATA, CRC and CMD as a host reads them, and stores to RXDATA and CRC, which are
ignored. -/
def Obligations.DataRegistersReadAndIgnoreStores : Prop :=
  (∀ s : State, readReg s .CMD = 0#32 ∧
    (readReg s .RXDATA).extractLsb' 0 8 = s.rxdata ∧ (readReg s .RXDATA).extractLsb' 8 24 = 0#24 ∧
    (readReg s .CRC).extractLsb' 0 8 = s.crcAcc ∧ (readReg s .CRC).extractLsb' 8 8 = 0#8 ∧
    (readReg s .CRC).extractLsb' 16 16 = s.crcCount) ∧
  ∀ (s s' : State) (w : Word) (off : Nat), off = 8 ∨ off = 12 →
    takeAction s = some (.store (Config.P_BASE + off) 4 w, s') → step s = .next s'

/-- R64, R61: aligned 32-bit accesses to an offset of the window that the register map does not list. -/
def Obligations.UnmappedOffsetsReadZeroIgnoreWrites : Prop :=
  ∀ (s s' : State) (off : Nat), off < 0x100 → off % 4 = 0 →
    off ∉ [0x000, 0x004, 0x008, 0x00C, 0x020, 0x024, 0x028, 0x030, 0x034, 0x038, 0x040, 0x044, 0x048,
      0x050, 0x054, 0x058, 0x060, 0x064, 0x068, 0x070, 0x074, 0x078, 0x07C, 0x080] →
    (takeAction s = some (.load (Config.P_BASE + off) 4, s') →
      step s = .next { s' with got := s'.got ++ [0#32] }) ∧
    (∀ w, takeAction s = some (.store (Config.P_BASE + off) 4 w, s') → step s = .next s')

/-- R62, R90, K22: a host access of another width, or at an offset that is no multiple of 4, is refused,
and so is one outside the window. The names of the refusals, and the order in which they are tried, are
the model's choice (log 13). -/
def Obligations.OtherWidthsAndMisalignedRefused : Prop :=
  (∀ (s s' : State) (off size : Nat), off < 0x100 → size ≠ 4 ∨ off % 4 ≠ 0 →
    (takeAction s = some (.load (Config.P_BASE + off) size, s') ∨
      ∃ w, takeAction s = some (.store (Config.P_BASE + off) size w, s')) →
    step s = .refused (if size ≠ 4 then .hostAccessWidth else .hostAccessMisaligned)) ∧
  ∀ (s s' : State) (addr size : Nat), addr < Config.P_BASE ∨ Config.P_BASE + 0x100 ≤ addr →
    (takeAction s = some (.load addr size, s') ∨
      ∃ w, takeAction s = some (.store addr size w, s')) →
    step s = .refused .hostAccessOutsideWindow

/-- R63: the byte order of the window, and that a byte view of a register and its word agree. -/
def Obligations.WindowIsLittleEndian : Prop :=
  ∀ (s : State) (r : HostReg) (j : Nat), j < 4 →
    windowByte (regOffset r + j) s = (readReg s r).extractLsb' (8 * j) 8

/-- R44, R45: an idle gap. The time stamp at the gap's end is the model's reading (log 11). -/
def Obligations.IdleGapAdvancesTime : Prop :=
  ∀ (s s' : State) (d : Nat), takeAction s = some (.idle d, s') →
    s.seq.busy = false ∧
    step s = .next { s' with now := s'.now + d, hist := s'.hist ++ [.idle d (s'.now + d)] }

/-- R310: the reset values the spec gives. -/
def Obligations.ResetValues : Prop :=
  State.reset.ctxValid = false ∧ State.reset.line = ⟨.input, .high⟩ ∧
    readReg State.reset .STATUS = 0x00000080#32 ∧ readReg State.reset .RXDATA = 0#32 ∧
    readReg State.reset .CRC = 0#32 ∧ State.reset.seq.busy = false ∧ State.reset.now = 0 ∧
    State.reset.hist = [] ∧ ∀ r, isStagingReg r = true → readReg State.reset r = 0#32

/-- R312: the block reset, also while a command runs. What the model's own fields do is its choice
(log 15). -/
def Obligations.BlockResetAbandonsTheCommand : Prop :=
  ∀ s s' : State, takeAction s = some (.blockReset, s') →
    step s = .next { State.reset with
      draws := s'.draws, inbox := s'.inbox, got := s'.got, epoch := s'.epoch + 1 }

/-! ### Errors -/

/-- R283, R280: a command that fails a configuration check. -/
def Obligations.FailedChecksWriteOnlyTheirResult : Prop :=
  ∀ s : State, Fresh s →
    (s.ctxValid = false → ∀ i, needsCtx i = true →
      exec i s = .next { s with
        presence := if i = .reset then false else s.presence
        rxdata := if i = .readBit ∨ i = .readByte ∨ i = .readLevel ∨ i = .getRomidCrcSupport then 0#8
          else s.rxdata
        err := .cfgUninit
        done := true
        seq := { s.seq with busy := false }
        hist := s.hist ++ [.cmdEnd s.seq.op .cfgUninit s.now] }) ∧
    (s.ctxValid = true →
      exec .init s = .next { s with
        err := .cfgActive
        done := true
        seq := { s.seq with busy := false }
        hist := s.hist ++ [.cmdEnd s.seq.op .cfgActive s.now] }) ∧
    (s.ctxValid = false →
      (s.seq.snapshot.aOutHigh = 0#64 ∨ s.seq.snapshot.aOutLow = 0#64 ∨
        s.seq.snapshot.aDirOut = 0#64 ∨ s.seq.snapshot.aDirIn = 0#64 ∨ s.seq.snapshot.aIn = 0#64 ∨
        s.seq.snapshot.mIn = 0#32 ∨ s.seq.snapshot.tWbl = 0#32 ∨ s.seq.snapshot.tWri = 0#32) →
      exec .init s = .next { s with
        err := .cfgInvalid
        done := true
        seq := { s.seq with busy := false }
        hist := s.hist ++ [.cmdEnd s.seq.op .cfgInvalid s.now] })

/-- R284, R42: the one outcome of a command word. Written while BUSY = 1 it is dropped and ERR stays;
else it completes within two steps with the code of the first condition that applies. -/
def Obligations.OneOutcomePerCommandWordByPriority : Prop :=
  (∀ (s s' : State) (w : Word), takeAction s = some (.store Config.P_BASE 4 w, s') →
    s.seq.busy = true → ∃ t, step s = .next t ∧ t.ovr = true ∧ t.err = s.err ∧ t.seq = s.seq) ∧
  ∀ (s : State) (due : Option Nat) (w : Word), s.seq.busy = false →
    s.inbox = [⟨due, .store Config.P_BASE 4 w⟩] →
    ∃ t, Host.Core.run core 2 s = .next t ∧ t.seq.busy = false ∧ t.done = true ∧ t.inbox = [] ∧
      t.ovr = s.ovr ∧
      t.err = (match decode w with
        | .error _ => .illegal
        | .ok i => expectedErr s (snapshotOf s.staging) i)

/-! ### Session commands -/

/-- R250 to R252: INIT with a valid snapshot and no context. -/
def Obligations.InitStoresTheSnapshotAndIdles : Prop :=
  ∀ s : State, Fresh s → s.ctxValid = false →
    s.seq.snapshot.aOutHigh ≠ 0#64 → s.seq.snapshot.aOutLow ≠ 0#64 →
    s.seq.snapshot.aDirOut ≠ 0#64 → s.seq.snapshot.aDirIn ≠ 0#64 → s.seq.snapshot.aIn ≠ 0#64 →
    s.seq.snapshot.mIn ≠ 0#32 → s.seq.snapshot.tWbl ≠ 0#32 → s.seq.snapshot.tWri ≠ 0#32 →
    ∃ t1 t2, Within s.now 0 Config.T_GPIO_MAX t1 ∧ Within t1 0 Config.T_GPIO_MAX t2 ∧
      exec .init s = .next { s with
        ctx := s.seq.snapshot
        ctxValid := true
        line := ⟨.output, .high⟩
        port := s.port ++ [.write s.seq.snapshot.aOutHigh s.seq.snapshot.vOutHigh,
          .write s.seq.snapshot.aDirOut s.seq.snapshot.vDirOut]
        now := t2
        draws := s.draws + 2
        err := .none
        done := true
        seq := { s.seq with busy := false, step := 2 }
        hist := s.hist ++ [.drive .outHigh t1, .drive .dirOut t2, .cmdEnd s.seq.op .none t2] }

/-- R254: TEARDOWN releases the line and ends the context; its fields keep their values. -/
def Obligations.TeardownReleasesAndEndsTheContext : Prop :=
  ∀ s : State, Fresh s → s.ctxValid = true →
    ∃ t1, Within s.now 0 Config.T_GPIO_MAX t1 ∧
      exec .teardown s = .next { s with
        ctxValid := false
        line := { s.line with dir := .input }
        port := s.port ++ [.write s.ctx.aDirIn s.ctx.vDirIn]
        now := t1
        draws := s.draws + 1
        err := .none
        done := true
        seq := { s.seq with busy := false, step := 1 }
        hist := s.hist ++ [.drive .dirIn t1, .cmdEnd s.seq.op .none t1] }

/-- R256: GET_ROMID_CRC_SUPPORT returns the context's flag, whatever the staging register holds. -/
def Obligations.GetRomidCrcSupportReturnsTheContextsFlag : Prop :=
  ∀ s : State, Fresh s → s.ctxValid = true →
    exec .getRomidCrcSupport s = .next { s with
      rxdata := if s.ctx.rcs then 1#8 else 0#8
      err := .none
      done := true
      seq := { s.seq with busy := false }
      hist := s.hist ++ [.cmdEnd s.seq.op .none s.now] }

/-! ### Raw line commands -/

/-- R150, R142: SET_DIRECTION makes one GPIO write, also when the direction does not change. -/
def Obligations.SetDirectionDrivesThePin : Prop :=
  ∀ (dir : Direction) (s : State), Fresh s → s.ctxValid = true →
    ∃ t1, Within s.now 0 Config.T_GPIO_MAX t1 ∧
      exec (.setDirection dir) s = .next { s with
        line := { s.line with dir := dir }
        port := s.port ++ [if dir = .output then .write s.ctx.aDirOut s.ctx.vDirOut
          else .write s.ctx.aDirIn s.ctx.vDirIn]
        now := t1
        draws := s.draws + 1
        err := .none
        done := true
        seq := { s.seq with busy := false, step := 1 }
        hist := s.hist ++
          [.drive (if dir = .output then .dirOut else .dirIn) t1, .cmdEnd s.seq.op .none t1] }

/-- R151, R142: SET_LEVEL makes one GPIO write, whatever the direction. -/
def Obligations.SetLevelDrivesTheLatch : Prop :=
  ∀ (lvl : Level) (s : State), Fresh s → s.ctxValid = true →
    ∃ t1, Within s.now 0 Config.T_GPIO_MAX t1 ∧
      exec (.setLevel lvl) s = .next { s with
        line := { s.line with lvl := lvl }
        port := s.port ++ [if lvl = .high then .write s.ctx.aOutHigh s.ctx.vOutHigh
          else .write s.ctx.aOutLow s.ctx.vOutLow]
        now := t1
        draws := s.draws + 1
        err := .none
        done := true
        seq := { s.seq with busy := false, step := 1 }
        hist := s.hist ++
          [.drive (if lvl = .high then .outHigh else .outLow) t1, .cmdEnd s.seq.op .none t1] }

/-- R152, R145: READ_LEVEL samples the wire once, at the end of the access; the masked bits of the
word read follow the wire. The mask of a valid context is not 0 (R252, `InvariantKeptByEveryStep`). -/
def Obligations.ReadLevelSamplesTheWire : Prop :=
  ∀ s : State, Fresh s → s.ctxValid = true → s.ctx.mIn ≠ 0#32 →
    ∃ t1 l w, Within s.now 0 Config.T_GPIO_MAX t1 ∧ l = wire Config.platform s t1 ∧
      (w &&& s.ctx.mIn ≠ 0#32 ↔ l = .high) ∧
      exec .readLevel s = .next { s with
        rxdata := if l = .high then 1#8 else 0#8
        port := s.port ++ [.read s.ctx.aIn w]
        now := t1
        draws := s.draws + 1
        err := .none
        done := true
        seq := { s.seq with busy := false, step := 1, sample := l }
        hist := s.hist ++ [.sample l t1, .cmdEnd s.seq.op .none t1] }

/-- R146, R28: the level of the wire on any platform. Under contention it is the platform's draw, and
nothing is said of it. In the states from a block reset to the first INIT, where K12 leaves the wire open
and no command samples it, that it is the environment's answer is the model's choice (log 25). -/
def Obligations.WireLevel : Prop :=
  ∀ (p : Platform) (s : State) (t : Nat),
    (s.line.dir = .output → s.line.lvl = .low → wire p s t = .low) ∧
    (s.line.dir = .output → s.line.lvl = .high → p.PAD_DRIVE = .pushPull →
      p.env s.epoch s.hist t = .high → wire p s t = .high) ∧
    (s.line.dir = .output → s.line.lvl = .high → p.PAD_DRIVE = .openDrain →
      wire p s t = p.env s.epoch s.hist t) ∧
    (s.line.dir = .input → wire p s t = p.env s.epoch s.hist t)

/-! ### Delays -/

/-- R165, R161, R162: DELAY_US lasts n to n + DELAY_JITTER µs, needs no context and changes nothing
else. -/
def Obligations.DelayUsWaitsItsOperand : Prop :=
  ∀ (n : BitVec 16) (s : State), Fresh s →
    ∃ d, n.toNat ≤ d ∧ d ≤ n.toNat + Config.DELAY_JITTER ∧
      exec (.delayUs n) s = .next { s with
        now := s.now + d
        draws := s.draws + 1
        err := .none
        done := true
        seq := { s.seq with busy := false, step := 1 }
        hist := s.hist ++ [.wait n.toNat d (s.now + d), .cmdEnd s.seq.op .none (s.now + d)] }

/-- R166: DELAY_MS is one delay of 1000 · n µs, without wrap, the jitter counted once. -/
def Obligations.DelayMsWaitsAThousandTimesItsOperand : Prop :=
  ∀ (n : BitVec 16) (s : State), Fresh s →
    ∃ d, 1000 * n.toNat ≤ d ∧ d ≤ 1000 * n.toNat + Config.DELAY_JITTER ∧
      exec (.delayMs n) s = .next { s with
        now := s.now + d
        draws := s.draws + 1
        err := .none
        done := true
        seq := { s.seq with busy := false, step := 1 }
        hist := s.hist ++
          [.wait (1000 * n.toNat) d (s.now + d), .cmdEnd s.seq.op .none (s.now + d)] }

/-! ### Transport -/

/-- R185, R187: RESET, its events in order with their bounds, and PRESENCE from the one sample, which is
the environment's answer. -/
def Obligations.ResetDetectsPresence : Prop :=
  ∀ s : State, Fresh s → s.ctxValid = true → s.ctx.mIn ≠ 0#32 →
    ∃ t1 t2 t3 t4 t5 t6 t7 l w,
      Within s.now 0 Config.T_GPIO_MAX t1 ∧ Within t1 0 Config.T_GPIO_MAX t2 ∧
      Within t2 Config.T_RSTL Config.DELAY_JITTER t3 ∧ Within t3 0 Config.T_GPIO_MAX t4 ∧
      Within t4 Config.T_PDS Config.DELAY_JITTER t5 ∧ Within t5 0 Config.T_GPIO_MAX t6 ∧
      Within t6 Config.T_RSTREC Config.DELAY_JITTER t7 ∧
      l = Config.env s.epoch (s.hist ++ [.drive .outLow t1, .drive .dirOut t2,
        .wait Config.T_RSTL (t3 - t2) t3, .drive .dirIn t4, .wait Config.T_PDS (t5 - t4) t5]) t6 ∧
      (w &&& s.ctx.mIn ≠ 0#32 ↔ l = .high) ∧
      exec .reset s = .next { s with
        presence := decide (l = .low)
        line := ⟨.input, .low⟩
        port := s.port ++ [.write s.ctx.aOutLow s.ctx.vOutLow, .write s.ctx.aDirOut s.ctx.vDirOut,
          .write s.ctx.aDirIn s.ctx.vDirIn, .read s.ctx.aIn w]
        now := t7
        draws := s.draws + 7
        err := .none
        done := true
        seq := { s.seq with busy := false, step := 7, sample := l }
        hist := s.hist ++ [.drive .outLow t1, .drive .dirOut t2, .wait Config.T_RSTL (t3 - t2) t3,
          .drive .dirIn t4, .wait Config.T_PDS (t5 - t4) t5, .sample l t6,
          .wait Config.T_RSTREC (t7 - t6) t7, .cmdEnd s.seq.op .none t7] }

/-- R189 to R191: WRITE_BIT, the write-0 and the write-1 slot. -/
def Obligations.WriteBitSendsOneSlot : Prop :=
  ∀ (bit : Bool) (s : State), Fresh s → s.ctxValid = true →
    ∃ low rec t1 t2 t3 t4 t5,
      low = (if bit then Config.T_W1L else s.ctx.tWbl.toNat) ∧
      rec = (if bit then Config.T_W1H else Config.T_W0REC) ∧
      Within s.now 0 Config.T_GPIO_MAX t1 ∧ Within t1 0 Config.T_GPIO_MAX t2 ∧
      Within t2 low Config.DELAY_JITTER t3 ∧ Within t3 0 Config.T_GPIO_MAX t4 ∧
      Within t4 rec Config.DELAY_JITTER t5 ∧
      exec (.writeBit bit) s = .next { s with
        line := ⟨.input, .low⟩
        port := s.port ++ [.write s.ctx.aOutLow s.ctx.vOutLow, .write s.ctx.aDirOut s.ctx.vDirOut,
          .write s.ctx.aDirIn s.ctx.vDirIn]
        now := t5
        draws := s.draws + 5
        err := .none
        done := true
        seq := { s.seq with busy := false, step := 5 }
        hist := s.hist ++ [.drive .outLow t1, .drive .dirOut t2, .wait low (t3 - t2) t3,
          .drive .dirIn t4, .wait rec (t5 - t4) t5, .cmdEnd s.seq.op .none t5] }

/-- R192, R193: READ_BIT, its events in order with their bounds, and the bit, the environment's answer
at the sample. -/
def Obligations.ReadBitReturnsTheSample : Prop :=
  ∀ s : State, Fresh s → s.ctxValid = true → s.ctx.mIn ≠ 0#32 →
    ∃ t1 t2 t3 t4 t5 t6 t7 l w,
      Within s.now 0 Config.T_GPIO_MAX t1 ∧ Within t1 0 Config.T_GPIO_MAX t2 ∧
      Within t2 Config.T_RL Config.DELAY_JITTER t3 ∧ Within t3 0 Config.T_GPIO_MAX t4 ∧
      Within t4 s.ctx.tWri.toNat Config.DELAY_JITTER t5 ∧ Within t5 0 Config.T_GPIO_MAX t6 ∧
      Within t6 Config.T_RREC Config.DELAY_JITTER t7 ∧
      l = Config.env s.epoch (s.hist ++ [.drive .outLow t1, .drive .dirOut t2,
        .wait Config.T_RL (t3 - t2) t3, .drive .dirIn t4,
        .wait s.ctx.tWri.toNat (t5 - t4) t5]) t6 ∧
      (w &&& s.ctx.mIn ≠ 0#32 ↔ l = .high) ∧
      exec .readBit s = .next { s with
        rxdata := if l = .high then 1#8 else 0#8
        line := ⟨.input, .low⟩
        port := s.port ++ [.write s.ctx.aOutLow s.ctx.vOutLow, .write s.ctx.aDirOut s.ctx.vDirOut,
          .write s.ctx.aDirIn s.ctx.vDirIn, .read s.ctx.aIn w]
        now := t7
        draws := s.draws + 7
        err := .none
        done := true
        seq := { s.seq with busy := false, step := 7, sample := l }
        hist := s.hist ++ [.drive .outLow t1, .drive .dirOut t2, .wait Config.T_RL (t3 - t2) t3,
          .drive .dirIn t4, .wait s.ctx.tWri.toNat (t5 - t4) t5, .sample l t6,
          .wait Config.T_RREC (t7 - t6) t7, .cmdEnd s.seq.op .none t7] }

/-- R200, R67, R183, R142, R161: WRITE_BYTE is eight write slots, bit 0 first, with no gap: each event
lies within its bound of the one before it. It leaves the line released with its latch Low. -/
def Obligations.WriteByteSendsEightSlotsLsbFirst : Prop :=
  ∀ (v : Byte) (s : State), Fresh s → s.ctxValid = true →
    ∃ t es, exec (.writeByte v) s = .next t ∧
      t.hist = s.hist ++ es ++ [.cmdEnd s.seq.op .none t.now] ∧ es.length = 40 ∧
      Stamped Config.platform s.now es t.now ∧
      es.filterMap shapeOf = [0, 1, 2, 3, 4, 5, 6, 7].flatMap (fun i =>
        if v.getLsbD i then writeSlotShape Config.T_W1L Config.T_W1H
        else writeSlotShape s.ctx.tWbl.toNat Config.T_W0REC) ∧
      t = { s with
        line := ⟨.input, .low⟩
        port := s.port ++ (List.replicate 8 [.write s.ctx.aOutLow s.ctx.vOutLow,
          .write s.ctx.aDirOut s.ctx.vDirOut, .write s.ctx.aDirIn s.ctx.vDirIn]).flatten
        now := t.now
        draws := s.draws + 40
        err := .none
        done := true
        seq := { s.seq with busy := false, step := 40, i := 7, shift := v }
        hist := t.hist }

/-- R201, R67, R193, R142, R161: READ_BYTE is eight read slots with no gap: each event lies within its
bound of the one before it. RXDATA bit k is the k-th sample, each the environment's answer over the
history before it. -/
def Obligations.ReadByteAssemblesEightSamplesLsbFirst : Prop :=
  ∀ s : State, Fresh s → s.ctxValid = true → s.ctx.mIn ≠ 0#32 →
    ∃ t es, exec .readByte s = .next t ∧
      t.hist = s.hist ++ es ++ [.cmdEnd s.seq.op .none t.now] ∧ es.length = 56 ∧
      Stamped Config.platform s.now es t.now ∧
      es.filterMap shapeOf = (List.replicate 8
        (readSlotShape Config.T_RL s.ctx.tWri.toNat Config.T_RREC)).flatten ∧
      (∀ before l u after, es = before ++ .sample l u :: after →
        l = Config.env s.epoch (s.hist ++ before) u) ∧
      (∀ k < 8, t.rxdata.getLsbD k = decide ((es.filterMap sampled)[k]? = some .high)) ∧
      (t.port.drop s.port.length).map portTarget = (List.replicate 8
        [(s.ctx.aOutLow, some s.ctx.vOutLow), (s.ctx.aDirOut, some s.ctx.vDirOut),
          (s.ctx.aDirIn, some s.ctx.vDirIn), (s.ctx.aIn, none)]).flatten ∧
      t = { s with
        rxdata := t.rxdata
        line := ⟨.input, .low⟩
        port := s.port ++ t.port.drop s.port.length
        now := t.now
        draws := s.draws + 56
        err := .none
        done := true
        seq := { s.seq with
          busy := false, step := 56, i := 7, shift := t.rxdata, sample := t.seq.sample }
        hist := t.hist }

/-- R202: with the loopback environment, on any platform, WRITE_BYTE v and then READ_BYTE gives v. -/
def Obligations.LoopbackReadsBackTheByteWritten : Prop :=
  ∀ (p : Platform) (v : Byte) (s : State), (∀ e h t, p.env e h t = echoEnv h) →
    s.ctxValid = true → s.ctx.mIn ≠ 0#32 → s.inbox = [] →
    ∃ t u, execOn p (.writeByte v) (accept (encode (.writeByte v)) s) = .next t ∧
      execOn p .readByte (accept (encode .readByte) t) = .next u ∧ u.rxdata = v ∧ u.err = .none

/-- R47, R188, R201: on any platform whose bus always answers one level: held low, RESET reports
presence and reads give 0; never low, RESET reports none and reads give 1s. -/
def Obligations.ConstantBusIsReadAsIs : Prop :=
  ∀ (p : Platform) (l : Level) (s : State), (∀ e h t, p.env e h t = l) → Fresh s →
    s.ctxValid = true → s.ctx.mIn ≠ 0#32 →
    ∃ t u v, execOn p .reset s = .next t ∧ t.presence = decide (l = .low) ∧ t.err = .none ∧
      execOn p .readBit s = .next u ∧ u.rxdata = (if l = .high then 1#8 else 0#8) ∧
      execOn p .readByte s = .next v ∧ v.rxdata = (if l = .high then 0xFF#8 else 0x00#8)

/-- R335, R186, R42: every command that passes its checks completes; its bus time lies between the
table's minimum and the minimum plus its overrun, and it makes the table's number of GPIO accesses. -/
def Obligations.CommandsCompleteWithinTheirDurations : Prop :=
  ∀ (i : Instr) (s : State), Fresh s → Passes i s →
    ∃ t, exec i s = .next t ∧ t.err = .none ∧ t.done = true ∧ t.seq.busy = false ∧
      Within s.now (minTime Config.platform s.ctx i)
        (delayCount i * Config.DELAY_JITTER + accessCount i * Config.T_GPIO_MAX) t.now ∧
      t.port.length = s.port.length + accessCount i

/-! ### CRC -/

/-- R223: CRC_CLEAR. -/
def Obligations.CrcClearZeroesTheAccumulator : Prop :=
  ∀ s : State, Fresh s →
    exec .crcClear s = .next { s with
      crcAcc := 0#8
      crcCount := 0#16
      err := .none
      done := true
      seq := { s.seq with busy := false }
      hist := s.hist ++ [.cmdEnd s.seq.op .none s.now] }

/-- R224, R230: CRC_UPDATE, with or without a context. -/
def Obligations.CrcUpdateFoldsOneByte : Prop :=
  ∀ (v : Byte) (s : State), Fresh s →
    exec (.crcUpdate v) s = .next { s with
      crcAcc := crcByte s.crcAcc v
      crcCount := BitVec.ofNat 16 (min (s.crcCount.toNat + 1) 0xFFFF)
      err := .none
      done := true
      seq := { s.seq with busy := false }
      hist := s.hist ++ [.cmdEnd s.seq.op .none s.now] }

/-- R222: the bit-serial update, from the last bit of the message back. -/
def Obligations.CrcByteIsEightBitSteps : Prop :=
  (∀ (c : Byte) (b : Bool), crcBit c b =
    (if (c.getLsbD 0 ^^ b) = true then c.ushiftRight 1 ^^^ 0x8C#8 else c.ushiftRight 1)) ∧
  (∀ c v : Byte, crcByte c v = crcBit (crcBit (crcBit (crcBit (crcBit (crcBit (crcBit (crcBit c
    (v.getLsbD 0)) (v.getLsbD 1)) (v.getLsbD 2)) (v.getLsbD 3)) (v.getLsbD 4)) (v.getLsbD 5))
    (v.getLsbD 6)) (v.getLsbD 7)) ∧
  crc8 [] = 0x00#8 ∧ ∀ (bs : List Byte) (v : Byte), crc8 (bs ++ [v]) = crcByte (crc8 bs) v

/-- R227: the laws of `crc8`. -/
def Obligations.CrcLaws : Prop :=
  (∀ c v : Byte, crcByte c v = crcByte 0#8 (c ^^^ v)) ∧
  (∀ a b : Byte, crcByte 0#8 (a ^^^ b) = crcByte 0#8 a ^^^ crcByte 0#8 b) ∧
  (∀ v : Byte, crcByte 0#8 v = 0#8 ↔ v = 0#8) ∧
  (∀ bs : List Byte, crc8 (bs ++ [crc8 bs]) = 0x00#8) ∧
  ∀ (bs : List Byte) (x : Byte), crc8 (bs ++ [x]) = 0x00#8 ↔ x = crc8 bs

/-- R220, R221: the bit-serial CRC is the remainder of the long division over GF(2) by
`x^8 + x^5 + x^4 + 1` of the message, followed by eight zeros, in transmission order; the register
holds it bit-reversed. -/
def Obligations.CrcIsTheLongDivisionsRemainder : Prop :=
  ∀ bs : List Byte,
    longDivision (8 * bs.length) (messageBits bs ++ List.replicate 8 false) =
      [0, 1, 2, 3, 4, 5, 6, 7].map fun i => (crc8 bs).getLsbD i

/-- R116, R225: the host program of `compute_crc8`, run by the machine from any idle state, ends with
the CRC of the bytes in bits [7:0] of the value read, and their number, saturated, above. A command of
the program is three steps: its store, its run, and the `wait` after it (log 20). -/
def Obligations.ComputeCrc8Program : Prop :=
  ∀ (bs : List Byte) (s : State), s.seq.busy = false →
    s.inbox = expand Config.platform (.computeCrc8 bs) →
    ∃ t w, Host.Core.run core (3 * bs.length + 4) s = .next t ∧ t.got = s.got ++ [w] ∧
      t.inbox = [] ∧ w.extractLsb' 0 8 = crc8 bs ∧
      (w.extractLsb' 16 16).toNat = min bs.length 0xFFFF

/-- R116, R226: the host program of `romid_crc_valid` reads bit 4 of STATUS as 1 iff the input is not
empty and its last byte is the CRC of the bytes before it. Steps as in `ComputeCrc8Program` (log 20). -/
def Obligations.RomidCrcValidProgram : Prop :=
  ∀ (bs : List Byte) (s : State), s.seq.busy = false →
    s.inbox = expand Config.platform (.romidCrcValid bs) →
    ∃ t w, Host.Core.run core (3 * bs.length + 4) s = .next t ∧ t.got = s.got ++ [w] ∧
      t.inbox = [] ∧ (w.getLsbD 4 = true ↔ ∃ b x, bs = b ++ [x] ∧ x = crc8 b)

/-- R116, R322: the host program `idle` returns the line to the state INIT leaves. Steps as in
`ComputeCrc8Program` (log 20). -/
def Obligations.IdleProgramRestoresTheIdleLine : Prop :=
  ∀ s : State, s.seq.busy = false → s.ctxValid = true →
    s.inbox = expand Config.platform .idle →
    ∃ t, Host.Core.run core 6 s = .next t ∧ t.line = ⟨.output, .high⟩ ∧ t.inbox = [] ∧
      t.err = .none ∧ t.presence = s.presence ∧ t.rxdata = s.rxdata

/-! ### Rules of the whole machine -/

/-- R23: the active context and CTX_VALID change only at a step of INIT or TEARDOWN, or a block reset. That
INIT's change comes at its first step, before its completion, is the model's reading (log 10). -/
def Obligations.ContextChangesOnlyByInitAndTeardown : Prop :=
  ∀ s t : State, step s = .next t → (t.ctx ≠ s.ctx ∨ t.ctxValid ≠ s.ctxValid) →
    (takeAction s = none ∧ s.seq.busy = true ∧
      ((decode s.seq.word = .ok .init ∧ s.ctxValid = false ∧ valid s.seq.snapshot = true ∧
          t.ctx = s.seq.snapshot ∧ t.ctxValid = true) ∨
        (decode s.seq.word = .ok .teardown ∧ t.ctx = s.ctx ∧ t.ctxValid = false ∧
          t.seq.busy = false))) ∨
      ∃ s', takeAction s = some (.blockReset, s')

/-- R21, R23: while CTX_VALID = 0 no step reads a field of `ctx`: two states that differ in it only step
alike. -/
def Obligations.ContextIsUnobservableWhileInvalid : Prop :=
  ∀ (s : State) (c : Context), Inv s → s.ctxValid = false →
    seen hideContext (step { s with ctx := c }) = seen hideContext (step s)

/-- R31: PRESENCE changes only when a RESET completes, or at a block reset. -/
def Obligations.PresenceChangesOnlyByReset : Prop :=
  ∀ s t : State, step s = .next t → t.presence ≠ s.presence →
    (s.seq.busy = true ∧ t.seq.busy = false ∧ decode s.seq.word = .ok .reset) ∨
      ∃ s', takeAction s = some (.blockReset, s')

/-- R33: RXDATA changes only when one of its four commands completes, or at a block reset. -/
def Obligations.RxdataChangesOnlyByItsCommands : Prop :=
  ∀ s t : State, step s = .next t → t.rxdata ≠ s.rxdata →
    (s.seq.busy = true ∧ t.seq.busy = false ∧
      ∃ i, decode s.seq.word = .ok i ∧
        (i = .readBit ∨ i = .readByte ∨ i = .readLevel ∨ i = .getRomidCrcSupport)) ∨
      ∃ s', takeAction s = some (.blockReset, s')

/-- R34, R32: CRC.ACC and CRC.COUNT change only when CRC_CLEAR or CRC_UPDATE completes, or at a block
reset; CRC_OK follows them alone. -/
def Obligations.CrcChangesOnlyByItsCommands : Prop :=
  (∀ s t : State, step s = .next t → (t.crcAcc ≠ s.crcAcc ∨ t.crcCount ≠ s.crcCount) →
    (s.seq.busy = true ∧ t.seq.busy = false ∧
      (decode s.seq.word = .ok .crcClear ∨ ∃ v, decode s.seq.word = .ok (.crcUpdate v))) ∨
      ∃ s', takeAction s = some (.blockReset, s')) ∧
  ∀ s t : State, t.crcAcc = s.crcAcc → t.crcCount = s.crcCount →
    (statusWord t).getLsbD 4 = (statusWord s).getLsbD 4

/-- R77: GPIO accesses are made only by a running command whose rule names them, under a valid context
(INIT makes it valid first), and never by one that ends with an error. That INIT's context is valid before its writes is log 10;
that a block reset, which makes no access, empties the record of them is log 15. -/
def Obligations.GpioAccessNeedsAContext : Prop :=
  ∀ s t : State, Inv s → step s = .next t → t.port ≠ s.port →
    (s.seq.busy = true ∧ t.err = .none ∧
      ∃ i, decode s.seq.word = .ok i ∧ 0 < accessCount i ∧
        (s.ctxValid = true ∨ (i = .init ∧ valid s.seq.snapshot = true ∧ t.ctxValid = true))) ∨
      (t.port = [] ∧ ∃ s', takeAction s = some (.blockReset, s'))

/-- R44, R45: outside a block reset bus time never goes back, and the history is only appended to. -/
def Obligations.HistoryGrowsAndTimeIsMonotone : Prop :=
  ∀ s t : State, step s = .next t → (∀ s', takeAction s ≠ some (.blockReset, s')) →
    s.now ≤ t.now ∧ ∃ es, t.hist = s.hist ++ es ∧
      (s.hist ≠ t.hist ∨ t.now = s.now) ∧ ∀ e ∈ es, s.now ≤ eventTime e ∧ eventTime e ≤ t.now

/-- R41, R65, R83, R106, R251: a host load, or a store to STATUS or a staging register, does not disturb a
running command: landing after any number of its primitives, it leaves the state the machine reaches
when the access waits for completion, but for what a load returns. Where an access can land is the
model's reading (log 2). -/
def Obligations.HostAccessDoesNotDisturbARunningCommand : Prop :=
  ∀ (s : State) (k : Nat) (r : HostReg), s.seq.busy = true → s.inbox = [] →
    (∀ w, isStagingReg r = true ∨ r = .STATUS →
      ∃ t, Host.Core.run core 3 { s with inbox :=
            [⟨some k, .store (Config.P_BASE + regOffset r) 4 w⟩] } = .next t ∧
        Host.Core.run core 3 { s with inbox :=
            [⟨none, .store (Config.P_BASE + regOffset r) 4 w⟩] } = .next t ∧
        t.seq.busy = false ∧ t.done = true) ∧
    ∃ t u, Host.Core.run core 3 { s with inbox :=
          [⟨some k, .load (Config.P_BASE + regOffset r) 4⟩] } = .next t ∧
      Host.Core.run core 3 { s with inbox :=
          [⟨none, .load (Config.P_BASE + regOffset r) 4⟩] } = .next u ∧
      t = { u with got := t.got } ∧ t.seq.busy = false ∧ t.done = true

/-- R252, R310: the invariant holds after reset. -/
def Obligations.InvariantHoldsAtReset : Prop := Inv State.reset

/-- R27, R42, R45, R77, R108, R252: the invariant is kept by every step. -/
def Obligations.InvariantKeptByEveryStep : Prop :=
  ∀ s t : State, Inv s → step s = .next t → Inv t

/-! ### Commands with host actions inside them -/

/-- R40, R42, R80: a command that stops for a host action due after `k` of its primitives has executed
exactly those, and resumed from there it reaches the state it reaches without the stop. Where it can stop
is the model's reading (log 2). -/
def Obligations.AStoppedCommandGoesOnWhereItStopped : Prop :=
  ∀ (i : Instr) (s : State) (k : Nat), stopAt s = some k → s.seq.step < k → k ≤ primCount i →
    s.seq.step ≠ 0 ∨ Passes i s →
    ∃ m t, exec i s = .next m ∧ m.seq.busy = s.seq.busy ∧ m.seq.step = k ∧ m.inbox = s.inbox ∧
      m.draws = s.draws + (k - s.seq.step) ∧ actionDue m = true ∧
      m.hist <+: t.hist ∧ m.port <+: t.port ∧
      exec i { s with inbox := [] } = .next t ∧ t.seq.busy = false ∧ t.err = .none ∧
      exec i { m with inbox := [] } = .next t

/-- R106, R42: a command word dropped inside a command leaves the command running: it goes on to its
completion, takes as long and makes the same accesses, and every field ends as without the word but OVR
and what the samples taken after it decide, since the environment answers them over a history that holds
the Dropped event. Where the word can land is the model's reading (log 2). -/
def Obligations.ADroppedWordLeavesTheCommandRunning : Prop :=
  ∀ (s : State) (k : Nat) (w : Word) (i : Instr), s.seq.busy = true → s.inbox = [] →
    decode s.seq.word = .ok i → k ≤ s.seq.step ∨ k ≤ primCount i →
    s.seq.step ≠ 0 ∨ Passes i s →
    ∃ t u v, Host.Core.run core 3 { s with inbox := [⟨some k, .store Config.P_BASE 4 w⟩] } = .next t ∧
      step s = .next u ∧ u.seq.busy = false ∧ u.done = true ∧ u.err = .none ∧
      s.now ≤ v ∧ v ≤ t.now ∧
      t.hist.filter isDropped = s.hist.filter isDropped ++ [.dropped w v] ∧
      t.hist.filterMap undisturbed = u.hist.filterMap undisturbed ∧
      t.port.map portTarget = u.port.map portTarget ∧
      t = { u with
        ovr := true
        presence := t.presence
        rxdata := t.rxdata
        seq := { u.seq with sample := t.seq.sample, shift := t.seq.shift }
        port := t.port
        hist := t.hist } ∧
      ((i = .reset → t.presence = decide (t.seq.sample = .low)) ∧ (i ≠ .reset → t.presence = s.presence)) ∧
      ((i = .readBit ∨ i = .readLevel → t.rxdata = if t.seq.sample = .high then 1#8 else 0#8) ∧
        (i = .readByte → t.rxdata = t.seq.shift) ∧
        (i ≠ .readBit ∧ i ≠ .readLevel ∧ i ≠ .readByte → t.rxdata = u.rxdata))

/-- R116, R185: the host program `presence` reads bit 3 of STATUS as 1 iff its RESET's one sample, the
environment's answer, is Low. Steps as in `ComputeCrc8Program` (log 20). -/
def Obligations.PresenceProgram : Prop :=
  ∀ s : State, s.seq.busy = false → s.ctxValid = true → s.ctx.mIn ≠ 0#32 →
    s.inbox = expand Config.platform .presence →
    ∃ t w before l u after, Host.Core.run core 4 s = .next t ∧ t.inbox = [] ∧
      t.got = s.got ++ [w] ∧ t.err = .none ∧ t.hist = s.hist ++ before ++ .sample l u :: after ∧
      before.filterMap sampled = [] ∧ after.filterMap sampled = [] ∧
      l = Config.env s.epoch (s.hist ++ before) u ∧ (w.getLsbD 3 = true ↔ l = .low)

/-- R116, R200, R201: the host programs `wbytes` and `rbytes` send and read whole bytes in order, first
byte first, each bit 0 first. Steps as in `ComputeCrc8Program` (log 20). -/
def Obligations.ByteSequencePrograms : Prop :=
  (∀ (s : State) (bs : List Byte), s.seq.busy = false → s.ctxValid = true →
    s.inbox = expand Config.platform (.wbytes bs) →
    ∃ t es, Host.Core.run core (3 * bs.length) s = .next t ∧ t.inbox = [] ∧ t.got = s.got ∧
      t.ovr = s.ovr ∧ (bs ≠ [] → t.err = .none ∧ t.line = ⟨.input, .low⟩) ∧
      t.hist = s.hist ++ es ∧
      es.filterMap startWord = bs.map (fun v => 0x06#32 ||| (v.setWidth 32).shiftLeft 16) ∧
      es.filterMap shapeOf = bs.flatMap (fun v => [0, 1, 2, 3, 4, 5, 6, 7].flatMap (fun i =>
        if v.getLsbD i then writeSlotShape Config.T_W1L Config.T_W1H
        else writeSlotShape s.ctx.tWbl.toNat Config.T_W0REC))) ∧
  ∀ (s : State) (k : Nat), s.seq.busy = false → s.ctxValid = true → s.ctx.mIn ≠ 0#32 →
    s.inbox = expand Config.platform (.rbytes k) →
    ∃ t es vs, Host.Core.run core (4 * k) s = .next t ∧ t.inbox = [] ∧ t.ovr = s.ovr ∧
      t.got = s.got ++ vs ∧ vs.length = k ∧ (0 < k → t.err = .none ∧ t.line = ⟨.input, .low⟩) ∧
      t.hist = s.hist ++ es ∧
      es.filterMap startWord = List.replicate k 0x07#32 ∧
      es.filterMap shapeOf = (List.replicate (8 * k)
        (readSlotShape Config.T_RL s.ctx.tWri.toNat Config.T_RREC)).flatten ∧
      (∀ before l u after, es = before ++ .sample l u :: after →
        l = Config.env s.epoch (s.hist ++ before) u) ∧
      ∀ j b, j < k → b < 8 → ∃ v, vs[j]? = some v ∧ v.extractLsb' 8 24 = 0#24 ∧
        v.getLsbD b = decide ((es.filterMap sampled)[8 * j + b]? = some .high)
end

