-- ==== Sys2Proof/Laws/State.lean ====
section
/-! SUPPORT. One lemma per field per update of the state, so that no proof unfolds a record update. -/

namespace Sys2Proof.Machine

section emit

variable (e : Event) (s : State)

@[simp] theorem emit_ctxValid : (emit e s).ctxValid = s.ctxValid := rfl
@[simp] theorem emit_ctx : (emit e s).ctx = s.ctx := rfl
@[simp] theorem emit_staging : (emit e s).staging = s.staging := rfl
@[simp] theorem emit_line : (emit e s).line = s.line := rfl
@[simp] theorem emit_done : (emit e s).done = s.done := rfl
@[simp] theorem emit_presence : (emit e s).presence = s.presence := rfl
@[simp] theorem emit_err : (emit e s).err = s.err := rfl
@[simp] theorem emit_ovr : (emit e s).ovr = s.ovr := rfl
@[simp] theorem emit_rxdata : (emit e s).rxdata = s.rxdata := rfl
@[simp] theorem emit_crcAcc : (emit e s).crcAcc = s.crcAcc := rfl
@[simp] theorem emit_crcCount : (emit e s).crcCount = s.crcCount := rfl
@[simp] theorem emit_seq : (emit e s).seq = s.seq := rfl
@[simp] theorem emit_now : (emit e s).now = s.now := rfl
@[simp] theorem emit_hist : (emit e s).hist = s.hist ++ [e] := rfl
@[simp] theorem emit_port : (emit e s).port = s.port := rfl
@[simp] theorem emit_draws : (emit e s).draws = s.draws := rfl
@[simp] theorem emit_inbox : (emit e s).inbox = s.inbox := rfl
@[simp] theorem emit_got : (emit e s).got = s.got := rfl
@[simp] theorem emit_epoch : (emit e s).epoch = s.epoch := rfl

end emit

section gw

variable (p : Platform) (k : DriveKind) (s : State)

@[simp] theorem gw_ctxValid : (gw p k s).ctxValid = s.ctxValid := rfl
@[simp] theorem gw_ctx : (gw p k s).ctx = s.ctx := rfl
@[simp] theorem gw_staging : (gw p k s).staging = s.staging := rfl
@[simp] theorem gw_line : (gw p k s).line = driveLine s.line k := rfl
@[simp] theorem gw_done : (gw p k s).done = s.done := rfl
@[simp] theorem gw_presence : (gw p k s).presence = s.presence := rfl
@[simp] theorem gw_err : (gw p k s).err = s.err := rfl
@[simp] theorem gw_ovr : (gw p k s).ovr = s.ovr := rfl
@[simp] theorem gw_rxdata : (gw p k s).rxdata = s.rxdata := rfl
@[simp] theorem gw_crcAcc : (gw p k s).crcAcc = s.crcAcc := rfl
@[simp] theorem gw_crcCount : (gw p k s).crcCount = s.crcCount := rfl
@[simp] theorem gw_seq : (gw p k s).seq = s.seq := rfl
@[simp] theorem gw_now : (gw p k s).now = s.now + gpioTime p s := rfl
@[simp] theorem gw_hist : (gw p k s).hist = s.hist ++ [.drive k (s.now + gpioTime p s)] := rfl
@[simp] theorem gw_port :
    (gw p k s).port = s.port ++ [.write (driveAddr s.ctx k) (driveData s.ctx k)] := rfl
@[simp] theorem gw_draws : (gw p k s).draws = s.draws + 1 := rfl
@[simp] theorem gw_inbox : (gw p k s).inbox = s.inbox := rfl
@[simp] theorem gw_got : (gw p k s).got = s.got := rfl
@[simp] theorem gw_epoch : (gw p k s).epoch = s.epoch := rfl

end gw

section gr

variable (p : Platform) (s : State)

@[simp] theorem gr_ctxValid : (gr p s).ctxValid = s.ctxValid := rfl
@[simp] theorem gr_ctx : (gr p s).ctx = s.ctx := rfl
@[simp] theorem gr_staging : (gr p s).staging = s.staging := rfl
@[simp] theorem gr_line : (gr p s).line = s.line := rfl
@[simp] theorem gr_done : (gr p s).done = s.done := rfl
@[simp] theorem gr_presence : (gr p s).presence = s.presence := rfl
@[simp] theorem gr_err : (gr p s).err = s.err := rfl
@[simp] theorem gr_ovr : (gr p s).ovr = s.ovr := rfl
@[simp] theorem gr_rxdata : (gr p s).rxdata = s.rxdata := rfl
@[simp] theorem gr_crcAcc : (gr p s).crcAcc = s.crcAcc := rfl
@[simp] theorem gr_crcCount : (gr p s).crcCount = s.crcCount := rfl
@[simp] theorem gr_seq : (gr p s).seq = { s.seq with sample := readLevel p s } := rfl
@[simp] theorem gr_now : (gr p s).now = s.now + gpioTime p s := rfl
@[simp] theorem gr_hist :
    (gr p s).hist = s.hist ++ [.sample (readLevel p s) (s.now + gpioTime p s)] := rfl
@[simp] theorem gr_port : (gr p s).port = s.port ++ [.read s.ctx.aIn (readWord p s)] := rfl
@[simp] theorem gr_draws : (gr p s).draws = s.draws + 1 := rfl
@[simp] theorem gr_inbox : (gr p s).inbox = s.inbox := rfl
@[simp] theorem gr_got : (gr p s).got = s.got := rfl
@[simp] theorem gr_epoch : (gr p s).epoch = s.epoch := rfl

end gr

section delay

variable (p : Platform) (n : Nat) (s : State)

@[simp] theorem delay_ctxValid : (delay p n s).ctxValid = s.ctxValid := rfl
@[simp] theorem delay_ctx : (delay p n s).ctx = s.ctx := rfl
@[simp] theorem delay_staging : (delay p n s).staging = s.staging := rfl
@[simp] theorem delay_line : (delay p n s).line = s.line := rfl
@[simp] theorem delay_done : (delay p n s).done = s.done := rfl
@[simp] theorem delay_presence : (delay p n s).presence = s.presence := rfl
@[simp] theorem delay_err : (delay p n s).err = s.err := rfl
@[simp] theorem delay_ovr : (delay p n s).ovr = s.ovr := rfl
@[simp] theorem delay_rxdata : (delay p n s).rxdata = s.rxdata := rfl
@[simp] theorem delay_crcAcc : (delay p n s).crcAcc = s.crcAcc := rfl
@[simp] theorem delay_crcCount : (delay p n s).crcCount = s.crcCount := rfl
@[simp] theorem delay_seq : (delay p n s).seq = s.seq := rfl
@[simp] theorem delay_now : (delay p n s).now = s.now + delayTime p n s := rfl
@[simp] theorem delay_hist :
    (delay p n s).hist = s.hist ++ [.wait n (delayTime p n s) (s.now + delayTime p n s)] := rfl
@[simp] theorem delay_port : (delay p n s).port = s.port := rfl
@[simp] theorem delay_draws : (delay p n s).draws = s.draws + 1 := rfl
@[simp] theorem delay_inbox : (delay p n s).inbox = s.inbox := rfl
@[simp] theorem delay_got : (delay p n s).got = s.got := rfl
@[simp] theorem delay_epoch : (delay p n s).epoch = s.epoch := rfl

end delay

section accept

variable (w : Word) (s : State)

@[simp] theorem accept_ctxValid : (accept w s).ctxValid = s.ctxValid := rfl
@[simp] theorem accept_ctx : (accept w s).ctx = s.ctx := rfl
@[simp] theorem accept_staging : (accept w s).staging = s.staging := rfl
@[simp] theorem accept_line : (accept w s).line = s.line := rfl
@[simp] theorem accept_done : (accept w s).done = false := rfl
@[simp] theorem accept_presence : (accept w s).presence = s.presence := rfl
@[simp] theorem accept_err : (accept w s).err = .none := rfl
@[simp] theorem accept_ovr : (accept w s).ovr = s.ovr := rfl
@[simp] theorem accept_rxdata : (accept w s).rxdata = s.rxdata := rfl
@[simp] theorem accept_crcAcc : (accept w s).crcAcc = s.crcAcc := rfl
@[simp] theorem accept_crcCount : (accept w s).crcCount = s.crcCount := rfl
@[simp] theorem accept_seq :
    (accept w s).seq = { s.seq with
      busy := true, word := w, op := opField w, step := 0
      snapshot := if decode w = .ok .init then snapshotOf s.staging else s.seq.snapshot } := rfl
@[simp] theorem accept_now : (accept w s).now = s.now := rfl
@[simp] theorem accept_hist : (accept w s).hist = s.hist ++ [.cmdStart w s.now] := rfl
@[simp] theorem accept_port : (accept w s).port = s.port := rfl
@[simp] theorem accept_draws : (accept w s).draws = s.draws := rfl
@[simp] theorem accept_inbox : (accept w s).inbox = s.inbox := rfl
@[simp] theorem accept_got : (accept w s).got = s.got := rfl
@[simp] theorem accept_epoch : (accept w s).epoch = s.epoch := rfl

end accept

section drop

variable (w : Word) (s : State)

@[simp] theorem drop_ctxValid : (drop w s).ctxValid = s.ctxValid := rfl
@[simp] theorem drop_ctx : (drop w s).ctx = s.ctx := rfl
@[simp] theorem drop_staging : (drop w s).staging = s.staging := rfl
@[simp] theorem drop_line : (drop w s).line = s.line := rfl
@[simp] theorem drop_done : (drop w s).done = s.done := rfl
@[simp] theorem drop_presence : (drop w s).presence = s.presence := rfl
@[simp] theorem drop_err : (drop w s).err = s.err := rfl
@[simp] theorem drop_ovr : (drop w s).ovr = true := rfl
@[simp] theorem drop_rxdata : (drop w s).rxdata = s.rxdata := rfl
@[simp] theorem drop_crcAcc : (drop w s).crcAcc = s.crcAcc := rfl
@[simp] theorem drop_crcCount : (drop w s).crcCount = s.crcCount := rfl
@[simp] theorem drop_seq : (drop w s).seq = s.seq := rfl
@[simp] theorem drop_now : (drop w s).now = s.now := rfl
@[simp] theorem drop_hist : (drop w s).hist = s.hist ++ [.dropped w s.now] := rfl
@[simp] theorem drop_port : (drop w s).port = s.port := rfl
@[simp] theorem drop_draws : (drop w s).draws = s.draws := rfl
@[simp] theorem drop_inbox : (drop w s).inbox = s.inbox := rfl
@[simp] theorem drop_got : (drop w s).got = s.got := rfl
@[simp] theorem drop_epoch : (drop w s).epoch = s.epoch := rfl

end drop

section finish

variable (e : ErrCode) (s : State)

@[simp] theorem finish_ctxValid : (finish e s).ctxValid = s.ctxValid := rfl
@[simp] theorem finish_ctx : (finish e s).ctx = s.ctx := rfl
@[simp] theorem finish_staging : (finish e s).staging = s.staging := rfl
@[simp] theorem finish_line : (finish e s).line = s.line := rfl
@[simp] theorem finish_done : (finish e s).done = true := rfl
@[simp] theorem finish_presence : (finish e s).presence = s.presence := rfl
@[simp] theorem finish_err : (finish e s).err = e := rfl
@[simp] theorem finish_ovr : (finish e s).ovr = s.ovr := rfl
@[simp] theorem finish_rxdata : (finish e s).rxdata = s.rxdata := rfl
@[simp] theorem finish_crcAcc : (finish e s).crcAcc = s.crcAcc := rfl
@[simp] theorem finish_crcCount : (finish e s).crcCount = s.crcCount := rfl
@[simp] theorem finish_seq : (finish e s).seq = { s.seq with busy := false } := rfl
@[simp] theorem finish_now : (finish e s).now = s.now := rfl
@[simp] theorem finish_hist : (finish e s).hist = s.hist ++ [.cmdEnd s.seq.op e s.now] := rfl
@[simp] theorem finish_port : (finish e s).port = s.port := rfl
@[simp] theorem finish_draws : (finish e s).draws = s.draws := rfl
@[simp] theorem finish_inbox : (finish e s).inbox = s.inbox := rfl
@[simp] theorem finish_got : (finish e s).got = s.got := rfl
@[simp] theorem finish_epoch : (finish e s).epoch = s.epoch := rfl

end finish

section countStep

variable (s : State)

@[simp] theorem countStep_ctxValid : (countStep s).ctxValid = s.ctxValid := rfl
@[simp] theorem countStep_ctx : (countStep s).ctx = s.ctx := rfl
@[simp] theorem countStep_staging : (countStep s).staging = s.staging := rfl
@[simp] theorem countStep_line : (countStep s).line = s.line := rfl
@[simp] theorem countStep_done : (countStep s).done = s.done := rfl
@[simp] theorem countStep_presence : (countStep s).presence = s.presence := rfl
@[simp] theorem countStep_err : (countStep s).err = s.err := rfl
@[simp] theorem countStep_ovr : (countStep s).ovr = s.ovr := rfl
@[simp] theorem countStep_rxdata : (countStep s).rxdata = s.rxdata := rfl
@[simp] theorem countStep_crcAcc : (countStep s).crcAcc = s.crcAcc := rfl
@[simp] theorem countStep_crcCount : (countStep s).crcCount = s.crcCount := rfl
@[simp] theorem countStep_seq : (countStep s).seq = { s.seq with step := s.seq.step + 1 } := rfl
@[simp] theorem countStep_now : (countStep s).now = s.now := rfl
@[simp] theorem countStep_hist : (countStep s).hist = s.hist := rfl
@[simp] theorem countStep_port : (countStep s).port = s.port := rfl
@[simp] theorem countStep_draws : (countStep s).draws = s.draws := rfl
@[simp] theorem countStep_inbox : (countStep s).inbox = s.inbox := rfl
@[simp] theorem countStep_got : (countStep s).got = s.got := rfl
@[simp] theorem countStep_epoch : (countStep s).epoch = s.epoch := rfl

end countStep

section setPresence

variable (b : Bool) (s : State)

@[simp] theorem setPresence_ctxValid : (setPresence b s).ctxValid = s.ctxValid := rfl
@[simp] theorem setPresence_ctx : (setPresence b s).ctx = s.ctx := rfl
@[simp] theorem setPresence_staging : (setPresence b s).staging = s.staging := rfl
@[simp] theorem setPresence_line : (setPresence b s).line = s.line := rfl
@[simp] theorem setPresence_done : (setPresence b s).done = s.done := rfl
@[simp] theorem setPresence_presence : (setPresence b s).presence = b := rfl
@[simp] theorem setPresence_err : (setPresence b s).err = s.err := rfl
@[simp] theorem setPresence_ovr : (setPresence b s).ovr = s.ovr := rfl
@[simp] theorem setPresence_rxdata : (setPresence b s).rxdata = s.rxdata := rfl
@[simp] theorem setPresence_crcAcc : (setPresence b s).crcAcc = s.crcAcc := rfl
@[simp] theorem setPresence_crcCount : (setPresence b s).crcCount = s.crcCount := rfl
@[simp] theorem setPresence_seq : (setPresence b s).seq = s.seq := rfl
@[simp] theorem setPresence_now : (setPresence b s).now = s.now := rfl
@[simp] theorem setPresence_hist : (setPresence b s).hist = s.hist := rfl
@[simp] theorem setPresence_port : (setPresence b s).port = s.port := rfl
@[simp] theorem setPresence_draws : (setPresence b s).draws = s.draws := rfl
@[simp] theorem setPresence_inbox : (setPresence b s).inbox = s.inbox := rfl
@[simp] theorem setPresence_got : (setPresence b s).got = s.got := rfl
@[simp] theorem setPresence_epoch : (setPresence b s).epoch = s.epoch := rfl

end setPresence

section setRxdata

variable (v : Byte) (s : State)

@[simp] theorem setRxdata_ctxValid : (setRxdata v s).ctxValid = s.ctxValid := rfl
@[simp] theorem setRxdata_ctx : (setRxdata v s).ctx = s.ctx := rfl
@[simp] theorem setRxdata_staging : (setRxdata v s).staging = s.staging := rfl
@[simp] theorem setRxdata_line : (setRxdata v s).line = s.line := rfl
@[simp] theorem setRxdata_done : (setRxdata v s).done = s.done := rfl
@[simp] theorem setRxdata_presence : (setRxdata v s).presence = s.presence := rfl
@[simp] theorem setRxdata_err : (setRxdata v s).err = s.err := rfl
@[simp] theorem setRxdata_ovr : (setRxdata v s).ovr = s.ovr := rfl
@[simp] theorem setRxdata_rxdata : (setRxdata v s).rxdata = v := rfl
@[simp] theorem setRxdata_crcAcc : (setRxdata v s).crcAcc = s.crcAcc := rfl
@[simp] theorem setRxdata_crcCount : (setRxdata v s).crcCount = s.crcCount := rfl
@[simp] theorem setRxdata_seq : (setRxdata v s).seq = s.seq := rfl
@[simp] theorem setRxdata_now : (setRxdata v s).now = s.now := rfl
@[simp] theorem setRxdata_hist : (setRxdata v s).hist = s.hist := rfl
@[simp] theorem setRxdata_port : (setRxdata v s).port = s.port := rfl
@[simp] theorem setRxdata_draws : (setRxdata v s).draws = s.draws := rfl
@[simp] theorem setRxdata_inbox : (setRxdata v s).inbox = s.inbox := rfl
@[simp] theorem setRxdata_got : (setRxdata v s).got = s.got := rfl
@[simp] theorem setRxdata_epoch : (setRxdata v s).epoch = s.epoch := rfl

end setRxdata

section loadShift

variable (v : Byte) (s : State)

@[simp] theorem loadShift_ctxValid : (loadShift v s).ctxValid = s.ctxValid := rfl
@[simp] theorem loadShift_ctx : (loadShift v s).ctx = s.ctx := rfl
@[simp] theorem loadShift_staging : (loadShift v s).staging = s.staging := rfl
@[simp] theorem loadShift_line : (loadShift v s).line = s.line := rfl
@[simp] theorem loadShift_done : (loadShift v s).done = s.done := rfl
@[simp] theorem loadShift_presence : (loadShift v s).presence = s.presence := rfl
@[simp] theorem loadShift_err : (loadShift v s).err = s.err := rfl
@[simp] theorem loadShift_ovr : (loadShift v s).ovr = s.ovr := rfl
@[simp] theorem loadShift_rxdata : (loadShift v s).rxdata = s.rxdata := rfl
@[simp] theorem loadShift_crcAcc : (loadShift v s).crcAcc = s.crcAcc := rfl
@[simp] theorem loadShift_crcCount : (loadShift v s).crcCount = s.crcCount := rfl
@[simp] theorem loadShift_seq : (loadShift v s).seq = { s.seq with shift := v } := rfl
@[simp] theorem loadShift_now : (loadShift v s).now = s.now := rfl
@[simp] theorem loadShift_hist : (loadShift v s).hist = s.hist := rfl
@[simp] theorem loadShift_port : (loadShift v s).port = s.port := rfl
@[simp] theorem loadShift_draws : (loadShift v s).draws = s.draws := rfl
@[simp] theorem loadShift_inbox : (loadShift v s).inbox = s.inbox := rfl
@[simp] theorem loadShift_got : (loadShift v s).got = s.got := rfl
@[simp] theorem loadShift_epoch : (loadShift v s).epoch = s.epoch := rfl

end loadShift

section adoptSnapshot

variable (s : State)

@[simp] theorem adoptSnapshot_ctxValid : (adoptSnapshot s).ctxValid = true := rfl
@[simp] theorem adoptSnapshot_ctx : (adoptSnapshot s).ctx = s.seq.snapshot := rfl
@[simp] theorem adoptSnapshot_staging : (adoptSnapshot s).staging = s.staging := rfl
@[simp] theorem adoptSnapshot_line : (adoptSnapshot s).line = s.line := rfl
@[simp] theorem adoptSnapshot_done : (adoptSnapshot s).done = s.done := rfl
@[simp] theorem adoptSnapshot_presence : (adoptSnapshot s).presence = s.presence := rfl
@[simp] theorem adoptSnapshot_err : (adoptSnapshot s).err = s.err := rfl
@[simp] theorem adoptSnapshot_ovr : (adoptSnapshot s).ovr = s.ovr := rfl
@[simp] theorem adoptSnapshot_rxdata : (adoptSnapshot s).rxdata = s.rxdata := rfl
@[simp] theorem adoptSnapshot_crcAcc : (adoptSnapshot s).crcAcc = s.crcAcc := rfl
@[simp] theorem adoptSnapshot_crcCount : (adoptSnapshot s).crcCount = s.crcCount := rfl
@[simp] theorem adoptSnapshot_seq : (adoptSnapshot s).seq = s.seq := rfl
@[simp] theorem adoptSnapshot_now : (adoptSnapshot s).now = s.now := rfl
@[simp] theorem adoptSnapshot_hist : (adoptSnapshot s).hist = s.hist := rfl
@[simp] theorem adoptSnapshot_port : (adoptSnapshot s).port = s.port := rfl
@[simp] theorem adoptSnapshot_draws : (adoptSnapshot s).draws = s.draws := rfl
@[simp] theorem adoptSnapshot_inbox : (adoptSnapshot s).inbox = s.inbox := rfl
@[simp] theorem adoptSnapshot_got : (adoptSnapshot s).got = s.got := rfl
@[simp] theorem adoptSnapshot_epoch : (adoptSnapshot s).epoch = s.epoch := rfl

end adoptSnapshot

section dropContext

variable (s : State)

@[simp] theorem dropContext_ctxValid : (dropContext s).ctxValid = false := rfl
@[simp] theorem dropContext_ctx : (dropContext s).ctx = s.ctx := rfl
@[simp] theorem dropContext_staging : (dropContext s).staging = s.staging := rfl
@[simp] theorem dropContext_line : (dropContext s).line = s.line := rfl
@[simp] theorem dropContext_done : (dropContext s).done = s.done := rfl
@[simp] theorem dropContext_presence : (dropContext s).presence = s.presence := rfl
@[simp] theorem dropContext_err : (dropContext s).err = s.err := rfl
@[simp] theorem dropContext_ovr : (dropContext s).ovr = s.ovr := rfl
@[simp] theorem dropContext_rxdata : (dropContext s).rxdata = s.rxdata := rfl
@[simp] theorem dropContext_crcAcc : (dropContext s).crcAcc = s.crcAcc := rfl
@[simp] theorem dropContext_crcCount : (dropContext s).crcCount = s.crcCount := rfl
@[simp] theorem dropContext_seq : (dropContext s).seq = s.seq := rfl
@[simp] theorem dropContext_now : (dropContext s).now = s.now := rfl
@[simp] theorem dropContext_hist : (dropContext s).hist = s.hist := rfl
@[simp] theorem dropContext_port : (dropContext s).port = s.port := rfl
@[simp] theorem dropContext_draws : (dropContext s).draws = s.draws := rfl
@[simp] theorem dropContext_inbox : (dropContext s).inbox = s.inbox := rfl
@[simp] theorem dropContext_got : (dropContext s).got = s.got := rfl
@[simp] theorem dropContext_epoch : (dropContext s).epoch = s.epoch := rfl

end dropContext

section clearCrc

variable (s : State)

@[simp] theorem clearCrc_ctxValid : (clearCrc s).ctxValid = s.ctxValid := rfl
@[simp] theorem clearCrc_ctx : (clearCrc s).ctx = s.ctx := rfl
@[simp] theorem clearCrc_staging : (clearCrc s).staging = s.staging := rfl
@[simp] theorem clearCrc_line : (clearCrc s).line = s.line := rfl
@[simp] theorem clearCrc_done : (clearCrc s).done = s.done := rfl
@[simp] theorem clearCrc_presence : (clearCrc s).presence = s.presence := rfl
@[simp] theorem clearCrc_err : (clearCrc s).err = s.err := rfl
@[simp] theorem clearCrc_ovr : (clearCrc s).ovr = s.ovr := rfl
@[simp] theorem clearCrc_rxdata : (clearCrc s).rxdata = s.rxdata := rfl
@[simp] theorem clearCrc_crcAcc : (clearCrc s).crcAcc = 0#8 := rfl
@[simp] theorem clearCrc_crcCount : (clearCrc s).crcCount = 0#16 := rfl
@[simp] theorem clearCrc_seq : (clearCrc s).seq = s.seq := rfl
@[simp] theorem clearCrc_now : (clearCrc s).now = s.now := rfl
@[simp] theorem clearCrc_hist : (clearCrc s).hist = s.hist := rfl
@[simp] theorem clearCrc_port : (clearCrc s).port = s.port := rfl
@[simp] theorem clearCrc_draws : (clearCrc s).draws = s.draws := rfl
@[simp] theorem clearCrc_inbox : (clearCrc s).inbox = s.inbox := rfl
@[simp] theorem clearCrc_got : (clearCrc s).got = s.got := rfl
@[simp] theorem clearCrc_epoch : (clearCrc s).epoch = s.epoch := rfl

end clearCrc

section foldCrc

variable (v : Byte) (s : State)

@[simp] theorem foldCrc_ctxValid : (foldCrc v s).ctxValid = s.ctxValid := rfl
@[simp] theorem foldCrc_ctx : (foldCrc v s).ctx = s.ctx := rfl
@[simp] theorem foldCrc_staging : (foldCrc v s).staging = s.staging := rfl
@[simp] theorem foldCrc_line : (foldCrc v s).line = s.line := rfl
@[simp] theorem foldCrc_done : (foldCrc v s).done = s.done := rfl
@[simp] theorem foldCrc_presence : (foldCrc v s).presence = s.presence := rfl
@[simp] theorem foldCrc_err : (foldCrc v s).err = s.err := rfl
@[simp] theorem foldCrc_ovr : (foldCrc v s).ovr = s.ovr := rfl
@[simp] theorem foldCrc_rxdata : (foldCrc v s).rxdata = s.rxdata := rfl
@[simp] theorem foldCrc_crcAcc : (foldCrc v s).crcAcc = crcByte s.crcAcc v := rfl
@[simp] theorem foldCrc_crcCount : (foldCrc v s).crcCount = countUp s.crcCount := rfl
@[simp] theorem foldCrc_seq : (foldCrc v s).seq = s.seq := rfl
@[simp] theorem foldCrc_now : (foldCrc v s).now = s.now := rfl
@[simp] theorem foldCrc_hist : (foldCrc v s).hist = s.hist := rfl
@[simp] theorem foldCrc_port : (foldCrc v s).port = s.port := rfl
@[simp] theorem foldCrc_draws : (foldCrc v s).draws = s.draws := rfl
@[simp] theorem foldCrc_inbox : (foldCrc v s).inbox = s.inbox := rfl
@[simp] theorem foldCrc_got : (foldCrc v s).got = s.got := rfl
@[simp] theorem foldCrc_epoch : (foldCrc v s).epoch = s.epoch := rfl

end foldCrc

section idleGap

variable (d : Nat) (s : State)

@[simp] theorem idleGap_ctxValid : (idleGap d s).ctxValid = s.ctxValid := rfl
@[simp] theorem idleGap_ctx : (idleGap d s).ctx = s.ctx := rfl
@[simp] theorem idleGap_staging : (idleGap d s).staging = s.staging := rfl
@[simp] theorem idleGap_line : (idleGap d s).line = s.line := rfl
@[simp] theorem idleGap_done : (idleGap d s).done = s.done := rfl
@[simp] theorem idleGap_presence : (idleGap d s).presence = s.presence := rfl
@[simp] theorem idleGap_err : (idleGap d s).err = s.err := rfl
@[simp] theorem idleGap_ovr : (idleGap d s).ovr = s.ovr := rfl
@[simp] theorem idleGap_rxdata : (idleGap d s).rxdata = s.rxdata := rfl
@[simp] theorem idleGap_crcAcc : (idleGap d s).crcAcc = s.crcAcc := rfl
@[simp] theorem idleGap_crcCount : (idleGap d s).crcCount = s.crcCount := rfl
@[simp] theorem idleGap_seq : (idleGap d s).seq = s.seq := rfl
@[simp] theorem idleGap_now : (idleGap d s).now = s.now + d := rfl
@[simp] theorem idleGap_hist : (idleGap d s).hist = s.hist ++ [.idle d (s.now + d)] := rfl
@[simp] theorem idleGap_port : (idleGap d s).port = s.port := rfl
@[simp] theorem idleGap_draws : (idleGap d s).draws = s.draws := rfl
@[simp] theorem idleGap_inbox : (idleGap d s).inbox = s.inbox := rfl
@[simp] theorem idleGap_got : (idleGap d s).got = s.got := rfl
@[simp] theorem idleGap_epoch : (idleGap d s).epoch = s.epoch := rfl

end idleGap

section setIndex

variable (b : Option (Fin 8)) (s : State)

@[simp] theorem setIndex_ctxValid : (setIndex b s).ctxValid = s.ctxValid := by cases b <;> rfl
@[simp] theorem setIndex_ctx : (setIndex b s).ctx = s.ctx := by cases b <;> rfl
@[simp] theorem setIndex_staging : (setIndex b s).staging = s.staging := by cases b <;> rfl
@[simp] theorem setIndex_line : (setIndex b s).line = s.line := by cases b <;> rfl
@[simp] theorem setIndex_done : (setIndex b s).done = s.done := by cases b <;> rfl
@[simp] theorem setIndex_presence : (setIndex b s).presence = s.presence := by cases b <;> rfl
@[simp] theorem setIndex_err : (setIndex b s).err = s.err := by cases b <;> rfl
@[simp] theorem setIndex_ovr : (setIndex b s).ovr = s.ovr := by cases b <;> rfl
@[simp] theorem setIndex_rxdata : (setIndex b s).rxdata = s.rxdata := by cases b <;> rfl
@[simp] theorem setIndex_crcAcc : (setIndex b s).crcAcc = s.crcAcc := by cases b <;> rfl
@[simp] theorem setIndex_crcCount : (setIndex b s).crcCount = s.crcCount := by cases b <;> rfl
@[simp] theorem setIndex_seq :
    (setIndex b s).seq = { s.seq with i := b.getD s.seq.i } := by cases b <;> rfl
@[simp] theorem setIndex_now : (setIndex b s).now = s.now := by cases b <;> rfl
@[simp] theorem setIndex_hist : (setIndex b s).hist = s.hist := by cases b <;> rfl
@[simp] theorem setIndex_port : (setIndex b s).port = s.port := by cases b <;> rfl
@[simp] theorem setIndex_draws : (setIndex b s).draws = s.draws := by cases b <;> rfl
@[simp] theorem setIndex_inbox : (setIndex b s).inbox = s.inbox := by cases b <;> rfl
@[simp] theorem setIndex_got : (setIndex b s).got = s.got := by cases b <;> rfl
@[simp] theorem setIndex_epoch : (setIndex b s).epoch = s.epoch := by cases b <;> rfl

end setIndex

section latchBit

variable (on : Bool) (s : State)

@[simp] theorem latchBit_ctxValid : (latchBit on s).ctxValid = s.ctxValid := by cases on <;> rfl
@[simp] theorem latchBit_ctx : (latchBit on s).ctx = s.ctx := by cases on <;> rfl
@[simp] theorem latchBit_staging : (latchBit on s).staging = s.staging := by cases on <;> rfl
@[simp] theorem latchBit_line : (latchBit on s).line = s.line := by cases on <;> rfl
@[simp] theorem latchBit_done : (latchBit on s).done = s.done := by cases on <;> rfl
@[simp] theorem latchBit_presence : (latchBit on s).presence = s.presence := by cases on <;> rfl
@[simp] theorem latchBit_err : (latchBit on s).err = s.err := by cases on <;> rfl
@[simp] theorem latchBit_ovr : (latchBit on s).ovr = s.ovr := by cases on <;> rfl
@[simp] theorem latchBit_rxdata : (latchBit on s).rxdata = s.rxdata := by cases on <;> rfl
@[simp] theorem latchBit_crcAcc : (latchBit on s).crcAcc = s.crcAcc := by cases on <;> rfl
@[simp] theorem latchBit_crcCount : (latchBit on s).crcCount = s.crcCount := by cases on <;> rfl
@[simp] theorem latchBit_seq :
    (latchBit on s).seq = { s.seq with
      shift := if on then withBit s.seq.shift s.seq.i (levelBit s.seq.sample) else s.seq.shift } := by cases on <;> rfl
@[simp] theorem latchBit_now : (latchBit on s).now = s.now := by cases on <;> rfl
@[simp] theorem latchBit_hist : (latchBit on s).hist = s.hist := by cases on <;> rfl
@[simp] theorem latchBit_port : (latchBit on s).port = s.port := by cases on <;> rfl
@[simp] theorem latchBit_draws : (latchBit on s).draws = s.draws := by cases on <;> rfl
@[simp] theorem latchBit_inbox : (latchBit on s).inbox = s.inbox := by cases on <;> rfl
@[simp] theorem latchBit_got : (latchBit on s).got = s.got := by cases on <;> rfl
@[simp] theorem latchBit_epoch : (latchBit on s).epoch = s.epoch := by cases on <;> rfl

end latchBit

end Sys2Proof.Machine
end

