-- ==== Sys2Proof/Laws/Ops.lean ====
section
/-! SUPPORT. What each shared operation can do, said once: the primitives, the micro-operations, a
command's run, `exec` and `step`. -/

namespace Sys2Proof.Machine

/-! ### The machine's platform -/

@[simp] theorem platform_P_BASE : Config.platform.P_BASE = Config.P_BASE := rfl
@[simp] theorem platform_PAD_DRIVE : Config.platform.PAD_DRIVE = Config.PAD_DRIVE := rfl
@[simp] theorem platform_T_RSTL : Config.platform.T_RSTL = Config.T_RSTL := rfl
@[simp] theorem platform_T_PDS : Config.platform.T_PDS = Config.T_PDS := rfl
@[simp] theorem platform_T_RSTREC : Config.platform.T_RSTREC = Config.T_RSTREC := rfl
@[simp] theorem platform_T_W1L : Config.platform.T_W1L = Config.T_W1L := rfl
@[simp] theorem platform_T_W1H : Config.platform.T_W1H = Config.T_W1H := rfl
@[simp] theorem platform_T_W0REC : Config.platform.T_W0REC = Config.T_W0REC := rfl
@[simp] theorem platform_T_RL : Config.platform.T_RL = Config.T_RL := rfl
@[simp] theorem platform_T_RREC : Config.platform.T_RREC = Config.T_RREC := rfl
@[simp] theorem platform_DELAY_JITTER : Config.platform.DELAY_JITTER = Config.DELAY_JITTER := rfl
@[simp] theorem platform_T_GPIO_MAX : Config.platform.T_GPIO_MAX = Config.T_GPIO_MAX := rfl
@[simp] theorem platform_ROMID_LEN : Config.platform.ROMID_LEN = Config.ROMID_LEN := rfl
@[simp] theorem platform_env : Config.platform.env = Config.env := rfl
@[simp] theorem platform_gpioDraw : Config.platform.gpioDraw = Config.gpioDraw := rfl
@[simp] theorem platform_delayDraw : Config.platform.delayDraw = Config.delayDraw := rfl
@[simp] theorem platform_contention : Config.platform.contention = Config.contention := rfl
@[simp] theorem platform_inputBits : Config.platform.inputBits = Config.inputBits := rfl

/-! ### Draws, the wire and the sample -/

/-- A GPIO access lasts at most T_GPIO_MAX (R142). -/
theorem gpioTime_le (p : Platform) (s : State) : gpioTime p s ≤ p.T_GPIO_MAX := by
  exact Nat.le_of_lt_succ (Nat.mod_lt _ (Nat.succ_pos _))

/-- A delay never ends early (R161). -/
theorem le_delayTime (p : Platform) (n : Nat) (s : State) : n ≤ delayTime p n s :=
  Nat.le_add_right _ _

/-- A delay overruns by at most DELAY_JITTER (R161). -/
theorem delayTime_le (p : Platform) (n : Nat) (s : State) : delayTime p n s ≤ n + p.DELAY_JITTER := by
  exact Nat.add_le_add_left (Nat.le_of_lt_succ (Nat.mod_lt _ (Nat.succ_pos _))) n

/-- The masked bits of the input word follow the wire (R145). -/
theorem levelOfWord_inputWord (p : Platform) (s : State) (l : Level) (h : s.ctx.mIn ≠ 0#32) :
    levelOfWord (inputWord p s l) s.ctx.mIn = l := by
  cases l
  · have : p.inputBits s.draws &&& ~~~s.ctx.mIn &&& s.ctx.mIn = 0#32 := by
      ext i hi; simp
    simp [levelOfWord, inputWord, this]
  · by_cases hr : p.inputBits s.draws &&& s.ctx.mIn = 0#32
    · have : (p.inputBits s.draws ||| s.ctx.mIn) &&& s.ctx.mIn = s.ctx.mIn := by
        ext i hi; simp; grind
      simp [levelOfWord, inputWord, hr, this, h]
    · simp [levelOfWord, inputWord, hr]

/-- A GR returns the wire's level at the end of the access (R145). -/
theorem readLevel_eq_wire (p : Platform) (s : State) (h : s.ctx.mIn ≠ 0#32) :
    readLevel p s = wire p s (s.now + gpioTime p s) :=
  levelOfWord_inputWord p s _ h

/-- While the line is released, the wire is the environment's answer (R146). -/
theorem wire_released (p : Platform) (s : State) (t : Nat) (h : s.line.dir = .input) :
    wire p s t = envLevel p s t := by
  simp [wire, masterLow, masterHigh, h]

/-- OWM's own low is what it samples (R146, R152). -/
theorem wire_driven_low (p : Platform) (s : State) (t : Nat) (h : masterLow s = true) :
    wire p s t = .low := by
  simp [wire, h]

/-! ### The primitives, with their draws hidden behind bounds -/

/-- Everything a GW does (R142). -/
theorem gw_next (p : Platform) (k : DriveKind) (s : State) :
    ∃ t, Within s.now 0 p.T_GPIO_MAX t ∧ gw p k s = { s with
      line := driveLine s.line k
      port := s.port ++ [.write (driveAddr s.ctx k) (driveData s.ctx k)]
      now := t
      draws := s.draws + 1
      hist := s.hist ++ [.drive k t] } :=
  ⟨s.now + gpioTime p s, ⟨Nat.le_add_right _ _, Nat.add_le_add_left (gpioTime_le p s) _⟩, rfl⟩

/-- Everything a GR does (R145). -/
theorem gr_next (p : Platform) (s : State) (h : s.ctx.mIn ≠ 0#32) :
    ∃ t w, Within s.now 0 p.T_GPIO_MAX t ∧ (w &&& s.ctx.mIn ≠ 0#32 ↔ wire p s t = .high) ∧
      gr p s = { s with
        port := s.port ++ [.read s.ctx.aIn w]
        now := t
        draws := s.draws + 1
        seq := { s.seq with sample := wire p s t }
        hist := s.hist ++ [.sample (wire p s t) t] } := by
  refine ⟨s.now + gpioTime p s, readWord p s,
    ⟨Nat.le_add_right _ _, Nat.add_le_add_left (gpioTime_le p s) _⟩, ?_, ?_⟩
  · rw [← readLevel_eq_wire p s h, readLevel, levelOfWord]
    split <;> simp_all
  · rw [← readLevel_eq_wire p s h]; rfl

/-- Everything a Delay does (R161). -/
theorem delay_next (p : Platform) (n : Nat) (s : State) :
    ∃ t, Within s.now n p.DELAY_JITTER t ∧ delay p n s = { s with
      now := t
      draws := s.draws + 1
      hist := s.hist ++ [.wait n (t - s.now) t] } := by
  refine ⟨s.now + delayTime p n s, ⟨?_, ?_⟩, ?_⟩
  · exact Nat.add_le_add_left (le_delayTime p n s) _
  · have := delayTime_le p n s; omega
  · rw [Nat.add_sub_cancel_left]; rfl

/-! ### Micro-operations -/

@[simp] theorem raise_eq (e : ErrCode) (z : State → State) (s : State) :
    raise e z s = finish e (z s) := rfl

@[simp] theorem runMicros_nil (p : Platform) (s : State) : runMicros p [] s = s := rfl

@[simp] theorem runMicros_cons (p : Platform) (m : Micro) (ms : List Micro) (s : State) :
    runMicros p (m :: ms) s = runMicros p ms (runMicro p m s) := rfl

theorem runMicros_append (p : Platform) (ms ns : List Micro) (s : State) :
    runMicros p (ms ++ ns) s = runMicros p ns (runMicros p ms s) := by
  induction ms generalizing s with
  | nil => rfl
  | cons m ms ih => exact ih _

/-- What every micro-operation keeps, lists of them keep. -/
theorem runMicros_keeps {α : Type} (f : State → α) (p : Platform)
    (h : ∀ m s, f (runMicro p m s) = f s) (ms : List Micro) (s : State) :
    f (runMicros p ms s) = f s := by
  induction ms generalizing s with
  | nil => rfl
  | cons m ms ih => exact (ih _).trans (h m s)

/-- A relation that holds of each micro-operation and chains holds of a list of them. -/
theorem runMicros_related (R : State → State → Prop) (p : Platform) (hr : ∀ s, R s s)
    (ht : ∀ a b c, R a b → R b c → R a c) (h : ∀ m s, R s (runMicro p m s)) (ms : List Micro)
    (s : State) : R s (runMicros p ms s) := by
  induction ms generalizing s with
  | nil => exact hr s
  | cons m ms ih => exact ht _ _ _ (h m s) (ih _)

section Frame

variable (p : Platform) (m : Micro) (ms : List Micro) (s : State)

@[simp] theorem runMicro_ctxValid : (runMicro p m s).ctxValid = s.ctxValid := by
  rcases m with ⟨_ | _ | _, _, _⟩ <;> simp [runMicro, runPrim]
@[simp] theorem runMicro_ctx : (runMicro p m s).ctx = s.ctx := by
  rcases m with ⟨_ | _ | _, _, _⟩ <;> simp [runMicro, runPrim]
@[simp] theorem runMicro_staging : (runMicro p m s).staging = s.staging := by
  rcases m with ⟨_ | _ | _, _, _⟩ <;> simp [runMicro, runPrim]
@[simp] theorem runMicro_done : (runMicro p m s).done = s.done := by
  rcases m with ⟨_ | _ | _, _, _⟩ <;> simp [runMicro, runPrim]
@[simp] theorem runMicro_presence : (runMicro p m s).presence = s.presence := by
  rcases m with ⟨_ | _ | _, _, _⟩ <;> simp [runMicro, runPrim]
@[simp] theorem runMicro_err : (runMicro p m s).err = s.err := by
  rcases m with ⟨_ | _ | _, _, _⟩ <;> simp [runMicro, runPrim]
@[simp] theorem runMicro_ovr : (runMicro p m s).ovr = s.ovr := by
  rcases m with ⟨_ | _ | _, _, _⟩ <;> simp [runMicro, runPrim]
@[simp] theorem runMicro_rxdata : (runMicro p m s).rxdata = s.rxdata := by
  rcases m with ⟨_ | _ | _, _, _⟩ <;> simp [runMicro, runPrim]
@[simp] theorem runMicro_crcAcc : (runMicro p m s).crcAcc = s.crcAcc := by
  rcases m with ⟨_ | _ | _, _, _⟩ <;> simp [runMicro, runPrim]
@[simp] theorem runMicro_crcCount : (runMicro p m s).crcCount = s.crcCount := by
  rcases m with ⟨_ | _ | _, _, _⟩ <;> simp [runMicro, runPrim]
@[simp] theorem runMicro_inbox : (runMicro p m s).inbox = s.inbox := by
  rcases m with ⟨_ | _ | _, _, _⟩ <;> simp [runMicro, runPrim]
@[simp] theorem runMicro_got : (runMicro p m s).got = s.got := by
  rcases m with ⟨_ | _ | _, _, _⟩ <;> simp [runMicro, runPrim]
@[simp] theorem runMicro_epoch : (runMicro p m s).epoch = s.epoch := by
  rcases m with ⟨_ | _ | _, _, _⟩ <;> simp [runMicro, runPrim]
@[simp] theorem runMicro_busy : (runMicro p m s).seq.busy = s.seq.busy := by
  rcases m with ⟨_ | _ | _, _, _⟩ <;> simp [runMicro, runPrim]
@[simp] theorem runMicro_op : (runMicro p m s).seq.op = s.seq.op := by
  rcases m with ⟨_ | _ | _, _, _⟩ <;> simp [runMicro, runPrim]
@[simp] theorem runMicro_word : (runMicro p m s).seq.word = s.seq.word := by
  rcases m with ⟨_ | _ | _, _, _⟩ <;> simp [runMicro, runPrim]
@[simp] theorem runMicro_snapshot : (runMicro p m s).seq.snapshot = s.seq.snapshot := by
  rcases m with ⟨_ | _ | _, _, _⟩ <;> simp [runMicro, runPrim]
@[simp] theorem runMicro_step : (runMicro p m s).seq.step = s.seq.step + 1 := by
  rcases m with ⟨_ | _ | _, _, _⟩ <;> simp [runMicro, runPrim]

@[simp] theorem runMicros_ctxValid : (runMicros p ms s).ctxValid = s.ctxValid :=
  runMicros_keeps (·.ctxValid) p (fun _ _ => by simp) ms s
@[simp] theorem runMicros_ctx : (runMicros p ms s).ctx = s.ctx :=
  runMicros_keeps (·.ctx) p (fun _ _ => by simp) ms s
@[simp] theorem runMicros_staging : (runMicros p ms s).staging = s.staging :=
  runMicros_keeps (·.staging) p (fun _ _ => by simp) ms s
@[simp] theorem runMicros_done : (runMicros p ms s).done = s.done :=
  runMicros_keeps (·.done) p (fun _ _ => by simp) ms s
@[simp] theorem runMicros_presence : (runMicros p ms s).presence = s.presence :=
  runMicros_keeps (·.presence) p (fun _ _ => by simp) ms s
@[simp] theorem runMicros_err : (runMicros p ms s).err = s.err :=
  runMicros_keeps (·.err) p (fun _ _ => by simp) ms s
@[simp] theorem runMicros_ovr : (runMicros p ms s).ovr = s.ovr :=
  runMicros_keeps (·.ovr) p (fun _ _ => by simp) ms s
@[simp] theorem runMicros_rxdata : (runMicros p ms s).rxdata = s.rxdata :=
  runMicros_keeps (·.rxdata) p (fun _ _ => by simp) ms s
@[simp] theorem runMicros_crcAcc : (runMicros p ms s).crcAcc = s.crcAcc :=
  runMicros_keeps (·.crcAcc) p (fun _ _ => by simp) ms s
@[simp] theorem runMicros_crcCount : (runMicros p ms s).crcCount = s.crcCount :=
  runMicros_keeps (·.crcCount) p (fun _ _ => by simp) ms s
@[simp] theorem runMicros_inbox : (runMicros p ms s).inbox = s.inbox :=
  runMicros_keeps (·.inbox) p (fun _ _ => by simp) ms s
@[simp] theorem runMicros_got : (runMicros p ms s).got = s.got :=
  runMicros_keeps (·.got) p (fun _ _ => by simp) ms s
@[simp] theorem runMicros_epoch : (runMicros p ms s).epoch = s.epoch :=
  runMicros_keeps (·.epoch) p (fun _ _ => by simp) ms s
@[simp] theorem runMicros_busy : (runMicros p ms s).seq.busy = s.seq.busy :=
  runMicros_keeps (·.seq.busy) p (fun _ _ => by simp) ms s
@[simp] theorem runMicros_op : (runMicros p ms s).seq.op = s.seq.op :=
  runMicros_keeps (·.seq.op) p (fun _ _ => by simp) ms s
@[simp] theorem runMicros_word : (runMicros p ms s).seq.word = s.seq.word :=
  runMicros_keeps (·.seq.word) p (fun _ _ => by simp) ms s
@[simp] theorem runMicros_snapshot : (runMicros p ms s).seq.snapshot = s.seq.snapshot :=
  runMicros_keeps (·.seq.snapshot) p (fun _ _ => by simp) ms s

end Frame

/-- Each micro-operation is one primitive of `seq.step` (R40). -/
@[simp] theorem runMicros_step (p : Platform) (ms : List Micro) (s : State) :
    (runMicros p ms s).seq.step = s.seq.step + ms.length := by
  induction ms generalizing s with
  | nil => rfl
  | cons m ms ih => rw [runMicros_cons, ih, runMicro_step, List.length_cons]; omega

/-! ### A command's run -/

/-- The next host action depends on the inbox alone. -/
theorem stopAt_congr {s t : State} (h : t.inbox = s.inbox) : stopAt t = stopAt s := by
  simp [stopAt, h]

theorem Fresh.not_due {s : State} (h : Fresh s) : actionDue s = false := by
  simp [actionDue, h.2]

/-- A command that fails its check completes at once with the code (R110, R283). -/
theorem Command.run_fails (c : Command) (p : Platform) {s : State} (h : Fresh s)
    (hc : c.check s ≠ .none) : c.run p s = .next (finish (c.check s) (c.zero s)) := by
  rw [Command.run, h.not_due, Command.runFrom, if_pos h.1]
  rcases hk : c.check s with _ | _ | _ | _ | _ <;> simp_all

/-- A command that passes its check runs its micro-operations and completes with NONE (R109, R42). -/
theorem Command.run_passes (c : Command) (p : Platform) {s : State} (h : Fresh s)
    (hc : c.check s = .none) (hi : (c.load s).inbox = s.inbox)
    (hs : (c.load s).seq.step = s.seq.step) :
    c.run p s =
      .next (finish .none (c.result (runMicros p (c.micros (c.load s)) (c.load s)))) := by
  rw [Command.run, h.not_due, Command.runFrom, if_pos h.1, hc]
  simp [Command.advance, stopAt_congr hi, h.2, hs, h.1]

/-- What `advance` can do: run some micro-operations, and then perhaps complete. -/
theorem Command.advance_cases (c : Command) (p : Platform) (s : State) :
    (∃ k j, c.advance p s = runMicros p (((c.micros s).take k).drop j) s) ∨
      (∃ j, c.advance p s = finish .none (c.result (runMicros p ((c.micros s).drop j) s))) := by
  unfold Command.advance
  split
  · exact .inr ⟨_, rfl⟩
  · split
    · exact .inl ⟨_, _, rfl⟩
    · exact .inr ⟨_, rfl⟩

/-- What a command's run can do: wait for a host action, fail its check, or advance, from its start
after a passed check or from where it stands. -/
theorem Command.run_cases (c : Command) (p : Platform) {s t : State} (h : c.run p s = .next t) :
    t = s ∨ (s.seq.step = 0 ∧ c.check s ≠ .none ∧ t = finish (c.check s) (c.zero s)) ∨
      (s.seq.step = 0 ∧ c.check s = .none ∧ t = c.advance p (c.load s)) ∨
      (s.seq.step ≠ 0 ∧ t = c.advance p s) := by
  simp only [Command.run, Host.Outcome.next.injEq] at h
  split at h
  · exact .inl h.symm
  · unfold Command.runFrom at h
    split at h
    · split at h
      · exact .inr (.inr (.inl ⟨‹_›, ‹_›, h.symm⟩))
      · exact .inr (.inl ⟨‹_›, ‹_›, h.symm⟩)
    · exact .inr (.inr (.inr ⟨‹_›, h.symm⟩))

/-! ### Stopping inside a command -/

/-- A command has the primitives the durations table counts (R335, R40). -/
theorem commandOf_micros_length (p : Platform) (i : Instr) (s : State) :
    ((commandOf p i).micros s).length = primCount i := by
  cases i <;> rfl

/-- Running up to the `k`-th primitive and then on is running on. -/
theorem runMicros_resume (p : Platform) (ms : List Micro) {j k : Nat} (h : j ≤ k) (s : State) :
    runMicros p (ms.drop k) (runMicros p ((ms.take k).drop j) s) = runMicros p (ms.drop j) s := by
  rw [← runMicros_append, List.drop_take]
  congr 1
  rw [show ms.drop k = (ms.drop j).drop (k - j) by rw [List.drop_drop]; congr 1; omega,
    List.take_append_drop]

/-- No micro-operation reads or writes what the host has yet to do. -/
theorem runMicros_inbox_update (p : Platform) (ms : List Micro) (s : State) (b : List HostEntry) :
    runMicros p ms { s with inbox := b } = { runMicros p ms s with inbox := b } := by
  induction ms generalizing s with
  | nil => rfl
  | cons m ms ih =>
    have : runMicro p m { s with inbox := b } = { runMicro p m s with inbox := b } := by
      rcases m with ⟨_ | _ | _, _ | _, _ | _⟩ <;> rfl
    rw [runMicros_cons, this, ih, runMicros_cons]

/-- No micro-operation reads or writes the staging registers. -/
theorem runMicros_staging_update (p : Platform) (ms : List Micro) (s : State) (g : Staging) :
    runMicros p ms { s with staging := g } = { runMicros p ms s with staging := g } := by
  induction ms generalizing s with
  | nil => rfl
  | cons m ms ih =>
    have : runMicro p m { s with staging := g } = { runMicro p m s with staging := g } := by
      rcases m with ⟨_ | _ | _, _ | _, _ | _⟩ <;> rfl
    rw [runMicros_cons, this, ih, runMicros_cons]

/-! ### `exec` and `step` -/

/-- `exec` is `execOn` on the uninterpreted platform. -/
theorem exec_eq (i : Instr) (s : State) : exec i s = execOn Config.platform i s := by
  cases i <;> rfl

/-- What a step can do: a host action, nothing, an illegal word, or the running command. -/
theorem step_cases {s t : State} (h : step s = .next t) :
    (∃ a s', takeAction s = some (a, s') ∧ hostAct Config.platform a s' = .next t) ∨
      (takeAction s = none ∧ s.seq.busy = false ∧ t = s) ∨
      (takeAction s = none ∧ s.seq.busy = true ∧ (∃ e, decode s.seq.word = .error e) ∧
        t = finish .illegal s) ∨
      (takeAction s = none ∧ s.seq.busy = true ∧
        ∃ i, decode s.seq.word = .ok i ∧ exec i s = .next t) := by
  unfold step at h
  split at h
  · exact .inl ⟨_, _, ‹_›, h⟩
  · split at h
    · split at h
      · exact .inr (.inr (.inr ⟨‹_›, ‹_›, _, ‹_›, h⟩))
      · exact .inr (.inr (.inl ⟨‹_›, ‹_›, ⟨_, ‹_›⟩, (Host.Outcome.next.inj h).symm⟩))
    · exact .inr (.inl ⟨‹_›, Bool.eq_false_of_not_eq_true ‹_›, (Host.Outcome.next.inj h).symm⟩)

end Sys2Proof.Machine
end

