-- ==== Sys2Proof/Laws/Transport.lean ====
section
/-! SUPPORT. What one write slot, one read slot and the reset sequence do (42_transport.md R184), each
said once, with its draws hidden behind bounds. -/

namespace Sys2Proof.Machine

/-- Primitives as micro-operations under an optional bit index: `plain` and `under` are this. -/
def tagged (b : Option (Fin 8)) (ps : List Prim) : List Micro := ps.map fun q => ⟨q, b, false⟩

theorem plain_eq_tagged (ps : List Prim) : plain ps = tagged none ps := rfl

theorem under_eq_tagged (i : Fin 8) (ps : List Prim) : under i ps = tagged (some i) ps := rfl

theorem tagged_append (b : Option (Fin 8)) (ps qs : List Prim) :
    tagged b (ps ++ qs) = tagged b ps ++ tagged b qs := List.map_append

/-- The port writes of a slot (R141, R142). -/
def slotWrites (c : Context) : List PortAccess :=
  [.write c.aOutLow c.vOutLow, .write c.aDirOut c.vDirOut, .write c.aDirIn c.vDirIn]

/-- The `k`-th GPIO draw from the state `s` on is within bounds. -/
theorem gpioDraw_within (p : Platform) (a k : Nat) :
    Within a 0 p.T_GPIO_MAX (a + p.gpioDraw k % (p.T_GPIO_MAX + 1)) :=
  ⟨Nat.le_add_right _ _, Nat.add_le_add_left (Nat.le_of_lt_succ (Nat.mod_lt _ (Nat.succ_pos _))) _⟩

/-- The `k`-th delay draw is within bounds. -/
theorem delayDraw_within (p : Platform) (a n k : Nat) :
    Within a n p.DELAY_JITTER (a + (n + p.delayDraw k % (p.DELAY_JITTER + 1))) := by
  have : p.delayDraw k % (p.DELAY_JITTER + 1) ≤ p.DELAY_JITTER :=
    Nat.le_of_lt_succ (Nat.mod_lt _ (Nat.succ_pos _))
  constructor <;> omega

/-- The three drives and the delay that open a slot: low for `n`, then released. -/
theorem slotHead_next (p : Platform) (b : Option (Fin 8)) (n : Nat) (s : State) :
    ∃ t1 t2 t3 t4, Within s.now 0 p.T_GPIO_MAX t1 ∧ Within t1 0 p.T_GPIO_MAX t2 ∧
      Within t2 n p.DELAY_JITTER t3 ∧ Within t3 0 p.T_GPIO_MAX t4 ∧
      runMicros p (tagged b (driveLow ++ [.delay n] ++ release)) s = { s with
        line := ⟨.input, .low⟩
        port := s.port ++ slotWrites s.ctx
        now := t4
        draws := s.draws + 4
        seq := { s.seq with i := b.getD s.seq.i, step := s.seq.step + 4 }
        hist := s.hist ++
          [.drive .outLow t1, .drive .dirOut t2, .wait n (t3 - t2) t3, .drive .dirIn t4] } := by
  refine ⟨_, _, _, _, gpioDraw_within p s.now s.draws, gpioDraw_within p _ (s.draws + 1),
    delayDraw_within p _ n (s.draws + 2), gpioDraw_within p _ (s.draws + 3), ?_⟩
  cases b <;>
  simp [tagged, driveLow, release, runMicro, runPrim, setIndex, latchBit, countStep, gw, delay, emit,
    driveLine, driveAddr, driveData, gpioTime, delayTime, slotWrites]

/-- WSLOT (R184, R190, R191). -/
theorem wslot_next (p : Platform) (b : Option (Fin 8)) (c : Context) (bit : Bool) (s : State) :
    ∃ t1 t2 t3 t4 t5, Within s.now 0 p.T_GPIO_MAX t1 ∧ Within t1 0 p.T_GPIO_MAX t2 ∧
      Within t2 (slotLow p c bit) p.DELAY_JITTER t3 ∧ Within t3 0 p.T_GPIO_MAX t4 ∧
      Within t4 (slotRec p bit) p.DELAY_JITTER t5 ∧
      runMicros p (tagged b (wslot p c bit)) s = { s with
        line := ⟨.input, .low⟩
        port := s.port ++ slotWrites s.ctx
        now := t5
        draws := s.draws + 5
        seq := { s.seq with i := b.getD s.seq.i, step := s.seq.step + 5 }
        hist := s.hist ++ [.drive .outLow t1, .drive .dirOut t2,
          .wait (slotLow p c bit) (t3 - t2) t3, .drive .dirIn t4,
          .wait (slotRec p bit) (t5 - t4) t5] } := by
  obtain ⟨t1, t2, t3, t4, h1, h2, h3, h4, e⟩ := slotHead_next p b (slotLow p c bit) s
  refine ⟨t1, t2, t3, t4, _, h1, h2, h3, h4, delayDraw_within p t4 _ (s.draws + 4), ?_⟩
  rw [wslot, tagged_append, runMicros_append, e]
  cases b <;>
  simp [tagged, runMicro, runPrim, setIndex, latchBit, countStep, delay, emit, delayTime]

/-- The sample and the closing delay of a read slot or a reset, from a released line. -/
theorem sampleTail_next (p : Platform) (b : Option (Fin 8)) (on : Bool) (n m : Nat) (s : State)
    (hl : s.line.dir = .input) (hm : s.ctx.mIn ≠ 0#32) :
    ∃ t5 t6 t7 l w, Within s.now n p.DELAY_JITTER t5 ∧ Within t5 0 p.T_GPIO_MAX t6 ∧
      Within t6 m p.DELAY_JITTER t7 ∧
      l = p.env s.epoch (s.hist ++ [.wait n (t5 - s.now) t5]) t6 ∧
      (w &&& s.ctx.mIn ≠ 0#32 ↔ l = .high) ∧
      runMicros p (tagged b [.delay n, .gr] ++ [⟨.delay m, b, on⟩]) s = { s with
        port := s.port ++ [.read s.ctx.aIn w]
        now := t7
        draws := s.draws + 3
        seq := { s.seq with
          i := b.getD s.seq.i
          step := s.seq.step + 3
          sample := l
          shift := if on then withBit s.seq.shift (b.getD s.seq.i) (levelBit l) else s.seq.shift }
        hist := s.hist ++ [.wait n (t5 - s.now) t5, .sample l t6, .wait m (t7 - t6) t7] } := by
  obtain ⟨t5, h5, e5⟩ := delay_next p n (setIndex b s)
  obtain ⟨t6, w, h6, hw, e6⟩ := gr_next p (runMicro p ⟨.delay n, b, false⟩ s) (by simpa using hm)
  have e5' : runMicro p ⟨.delay n, b, false⟩ s = { s with
      now := t5
      draws := s.draws + 1
      hist := s.hist ++ [.wait n (t5 - s.now) t5]
      seq := { s.seq with i := b.getD s.seq.i, step := s.seq.step + 1 } } := by
    rw [runMicro, runPrim, e5]; cases b <;> simp [latchBit, countStep, setIndex]
  rw [wire_released p _ t6 (by rw [e5']; exact hl)] at hw e6
  refine ⟨t5, t6, _, _, w, by simpa using h5, ?_, delayDraw_within p t6 m (s.draws + 2), rfl, ?_, ?_⟩
  · simpa [e5'] using h6
  · simpa [e5', envLevel] using hw
  · rw [tagged, List.map_cons, List.cons_append, runMicros_cons]
    have e6' : runMicro p ⟨.gr, b, false⟩ (runMicro p ⟨.delay n, b, false⟩ s) =
        countStep (gr p (runMicro p ⟨.delay n, b, false⟩ s)) := by
      rw [e5']; cases b <;> rfl
    rw [List.map_cons, List.map_nil, List.cons_append, List.nil_append, runMicros_cons, e6', e6, e5']
    cases b <;> cases on <;>
    simp [runMicro, runPrim, setIndex, latchBit, countStep, delay, emit, delayTime, envLevel]

/-- RSLOT (R184, R192); with `on`, the bit is put into `seq.shift` (R201). -/
theorem rslot_next (p : Platform) (b : Option (Fin 8)) (on : Bool) (c : Context) (s : State)
    (hm : s.ctx.mIn ≠ 0#32) :
    ∃ t1 t2 t3 t4 t5 t6 t7 l w, Within s.now 0 p.T_GPIO_MAX t1 ∧ Within t1 0 p.T_GPIO_MAX t2 ∧
      Within t2 p.T_RL p.DELAY_JITTER t3 ∧ Within t3 0 p.T_GPIO_MAX t4 ∧
      Within t4 c.tWri.toNat p.DELAY_JITTER t5 ∧ Within t5 0 p.T_GPIO_MAX t6 ∧
      Within t6 p.T_RREC p.DELAY_JITTER t7 ∧
      l = p.env s.epoch (s.hist ++ [.drive .outLow t1, .drive .dirOut t2,
        .wait p.T_RL (t3 - t2) t3, .drive .dirIn t4, .wait c.tWri.toNat (t5 - t4) t5]) t6 ∧
      (w &&& s.ctx.mIn ≠ 0#32 ↔ l = .high) ∧
      runMicros p (tagged b (rslotHead p c) ++ [⟨rslotTail p, b, on⟩]) s = { s with
        line := ⟨.input, .low⟩
        port := s.port ++ (slotWrites s.ctx ++ [.read s.ctx.aIn w])
        now := t7
        draws := s.draws + 7
        seq := { s.seq with
          i := b.getD s.seq.i
          step := s.seq.step + 7
          sample := l
          shift := if on then withBit s.seq.shift (b.getD s.seq.i) (levelBit l) else s.seq.shift }
        hist := s.hist ++ [.drive .outLow t1, .drive .dirOut t2, .wait p.T_RL (t3 - t2) t3,
          .drive .dirIn t4, .wait c.tWri.toNat (t5 - t4) t5, .sample l t6,
          .wait p.T_RREC (t7 - t6) t7] } := by
  obtain ⟨t1, t2, t3, t4, h1, h2, h3, h4, e⟩ := slotHead_next p b p.T_RL s
  obtain ⟨t5, t6, t7, l, w, h5, h6, h7, hl, hw, e'⟩ := sampleTail_next p b on c.tWri.toNat p.T_RREC
    (runMicros p (tagged b (driveLow ++ [.delay p.T_RL] ++ release)) s) (by rw [e]) (by simpa using hm)
  rw [e] at h5 hl hw e'
  refine ⟨t1, t2, t3, t4, t5, t6, t7, l, w, h1, h2, h3, h4, h5, h6, h7, ?_, hw, ?_⟩
  · simpa using hl
  · rw [rslotHead, tagged_append, List.append_assoc, runMicros_append, e, rslotTail, e']
    cases b <;> simp

/-- RSTSEQ (R184, R185). -/
theorem rstseq_next (p : Platform) (s : State) (hm : s.ctx.mIn ≠ 0#32) :
    ∃ t1 t2 t3 t4 t5 t6 t7 l w, Within s.now 0 p.T_GPIO_MAX t1 ∧ Within t1 0 p.T_GPIO_MAX t2 ∧
      Within t2 p.T_RSTL p.DELAY_JITTER t3 ∧ Within t3 0 p.T_GPIO_MAX t4 ∧
      Within t4 p.T_PDS p.DELAY_JITTER t5 ∧ Within t5 0 p.T_GPIO_MAX t6 ∧
      Within t6 p.T_RSTREC p.DELAY_JITTER t7 ∧
      l = p.env s.epoch (s.hist ++ [.drive .outLow t1, .drive .dirOut t2,
        .wait p.T_RSTL (t3 - t2) t3, .drive .dirIn t4, .wait p.T_PDS (t5 - t4) t5]) t6 ∧
      (w &&& s.ctx.mIn ≠ 0#32 ↔ l = .high) ∧
      runMicros p (plain (rstseq p)) s = { s with
        line := ⟨.input, .low⟩
        port := s.port ++ (slotWrites s.ctx ++ [.read s.ctx.aIn w])
        now := t7
        draws := s.draws + 7
        seq := { s.seq with step := s.seq.step + 7, sample := l }
        hist := s.hist ++ [.drive .outLow t1, .drive .dirOut t2, .wait p.T_RSTL (t3 - t2) t3,
          .drive .dirIn t4, .wait p.T_PDS (t5 - t4) t5, .sample l t6,
          .wait p.T_RSTREC (t7 - t6) t7] } := by
  obtain ⟨t1, t2, t3, t4, h1, h2, h3, h4, e⟩ := slotHead_next p none p.T_RSTL s
  obtain ⟨t5, t6, t7, l, w, h5, h6, h7, hl, hw, e'⟩ := sampleTail_next p none false p.T_PDS p.T_RSTREC
    (runMicros p (tagged none (driveLow ++ [.delay p.T_RSTL] ++ release)) s) (by rw [e])
    (by simpa using hm)
  rw [e] at h5 hl hw e'
  refine ⟨t1, t2, t3, t4, t5, t6, t7, l, w, h1, h2, h3, h4, h5, h6, h7, ?_, hw, ?_⟩
  · simpa using hl
  · have hr : plain (rstseq p) = tagged none (driveLow ++ [.delay p.T_RSTL] ++ release) ++
        (tagged none [.delay p.T_PDS, .gr] ++ [⟨.delay p.T_RSTREC, none, false⟩]) := rfl
    rw [hr, runMicros_append, e, e']
    simp

end Sys2Proof.Machine
end

