-- ==== Sys2Proof/Laws/Bytes.lean ====
section
/-! SUPPORT. What a row of write slots or read slots does (42_transport.md R200, R201), over any
non-empty list of bit indices; a byte command is the list `bitOrder`. -/

namespace Sys2Proof.Machine

/-- Event rows without a gap join to one. -/
theorem Stamped.append {p : Platform} {es fs : List Event} {a b c : Nat} (h : Stamped p a es b)
    (g : Stamped p b fs c) : Stamped p a (es ++ fs) c := by
  induction es generalizing a with
  | nil => exact (show a = b from h) ▸ g
  | cons e es ih =>
    cases e <;> simp only [Stamped] at h <;> simp only [List.cons_append, Stamped]
    · exact ⟨h.1, ih h.2⟩
    · exact ⟨h.1, ih h.2⟩
    · exact ⟨h.1, h.2.1, ih h.2.2⟩

/-- The duration of a delay that ends within its bound. -/
theorem Within.duration {a n j t : Nat} (h : Within a n j t) :
    Within n 0 j (t - a) ∧ t = a + (t - a) := by
  obtain ⟨h1, h2⟩ := h
  exact ⟨⟨by omega, by omega⟩, by omega⟩

/-- The events of a write slot have no gap. -/
theorem stamped_writeSlot {p : Platform} {a n m t1 t2 t3 t4 t5 : Nat}
    (h1 : Within a 0 p.T_GPIO_MAX t1) (h2 : Within t1 0 p.T_GPIO_MAX t2)
    (h3 : Within t2 n p.DELAY_JITTER t3) (h4 : Within t3 0 p.T_GPIO_MAX t4)
    (h5 : Within t4 m p.DELAY_JITTER t5) :
    Stamped p a [.drive .outLow t1, .drive .dirOut t2, .wait n (t3 - t2) t3, .drive .dirIn t4,
      .wait m (t5 - t4) t5] t5 :=
  ⟨h1, h2, h3.duration.1, h3.duration.2, h4, h5.duration.1, h5.duration.2, rfl⟩

/-- The events of a read slot have no gap. -/
theorem stamped_readSlot {p : Platform} {a n m r t1 t2 t3 t4 t5 t6 t7 : Nat} {l : Level}
    (h1 : Within a 0 p.T_GPIO_MAX t1) (h2 : Within t1 0 p.T_GPIO_MAX t2)
    (h3 : Within t2 n p.DELAY_JITTER t3) (h4 : Within t3 0 p.T_GPIO_MAX t4)
    (h5 : Within t4 m p.DELAY_JITTER t5) (h6 : Within t5 0 p.T_GPIO_MAX t6)
    (h7 : Within t6 r p.DELAY_JITTER t7) :
    Stamped p a [.drive .outLow t1, .drive .dirOut t2, .wait n (t3 - t2) t3, .drive .dirIn t4,
      .wait m (t5 - t4) t5, .sample l t6, .wait r (t7 - t6) t7] t7 :=
  ⟨h1, h2, h3.duration.1, h3.duration.2, h4, h5.duration.1, h5.duration.2, h6, h7.duration.1,
    h7.duration.2, rfl⟩

/-- The write slots of the bits of `v` at the indices `is` (R200). -/
theorem writeSlots_next (p : Platform) (c : Context) (v : Byte) (is : List (Fin 8)) (s : State)
    (hne : is ≠ []) :
    ∃ t es, runMicros p (is.flatMap fun i => under i (wslot p c (byteBit v i))) s = t ∧
      t.hist = s.hist ++ es ∧ es.length = 5 * is.length ∧ Stamped p s.now es t.now ∧
      es.filterMap shapeOf = is.flatMap (fun i =>
        if byteBit v i then writeSlotShape p.T_W1L p.T_W1H
        else writeSlotShape c.tWbl.toNat p.T_W0REC) ∧
      t = { s with
        line := ⟨.input, .low⟩
        port := s.port ++ (List.replicate is.length (slotWrites s.ctx)).flatten
        now := t.now
        draws := s.draws + 5 * is.length
        seq := { s.seq with i := is.getLast hne, step := s.seq.step + 5 * is.length }
        hist := t.hist } := by
  induction is generalizing s with
  | nil => exact absurd rfl hne
  | cons i is ih =>
    obtain ⟨t1, t2, t3, t4, t5, h1, h2, h3, h4, h5, e⟩ := wslot_next p (some i) c (byteBit v i) s
    rw [List.flatMap_cons, runMicros_append, under_eq_tagged, e]
    rcases is with _ | ⟨j, is⟩
    · refine ⟨_, _, rfl, rfl, rfl, stamped_writeSlot h1 h2 h3 h4 h5, ?_, ?_⟩
      · cases hb : byteBit v i <;> simp [shapeOf, hb, writeSlotShape, slotLow, slotRec]
      · simp
    · obtain ⟨t, es, h, hh, hl, hst, hs, ht⟩ := ih { s with
        line := ⟨.input, .low⟩
        port := s.port ++ slotWrites s.ctx
        now := t5
        draws := s.draws + 5
        seq := { s.seq with i := (some i).getD s.seq.i, step := s.seq.step + 5 }
        hist := s.hist ++ [.drive .outLow t1, .drive .dirOut t2,
          .wait (slotLow p c (byteBit v i)) (t3 - t2) t3, .drive .dirIn t4,
          .wait (slotRec p (byteBit v i)) (t5 - t4) t5] } (by simp)
      refine ⟨t, _, h, by rw [hh, List.append_assoc], by simp [hl]; omega,
        (stamped_writeSlot h1 h2 h3 h4 h5).append hst, ?_, ?_⟩
      · rw [List.filterMap_append, hs, List.flatMap_cons]
        cases hb : byteBit v i <;> simp [shapeOf, hb, writeSlotShape, slotLow, slotRec]
      · rw [ht]; simp [List.replicate_succ]; omega

/-- The read slots at the indices `is`, each latching its bit (R201). -/
def readSlotsAt (p : Platform) (c : Context) (is : List (Fin 8)) : List Micro :=
  is.flatMap fun i => under i (rslotHead p c) ++ [⟨rslotTail p, some i, true⟩]

/-- Everything a row of read slots does (R201). -/
theorem readSlots_next (p : Platform) (c : Context) (is : List (Fin 8)) (s : State)
    (hne : is ≠ []) (hm : s.ctx.mIn ≠ 0#32) :
    ∃ t es qs, runMicros p (readSlotsAt p c is) s = t ∧ t.hist = s.hist ++ es ∧
      es.length = 7 * is.length ∧ Stamped p s.now es t.now ∧
      es.filterMap shapeOf =
        (List.replicate is.length (readSlotShape p.T_RL c.tWri.toNat p.T_RREC)).flatten ∧
      (∀ before l u after, es = before ++ .sample l u :: after →
        l = p.env s.epoch (s.hist ++ before) u) ∧
      (es.filterMap sampled).length = is.length ∧
      t.seq.shift = (is.zip (es.filterMap sampled)).foldl
        (fun v il => withBit v il.1 (levelBit il.2)) s.seq.shift ∧
      qs.map portTarget = (List.replicate is.length
        [(s.ctx.aOutLow, some s.ctx.vOutLow), (s.ctx.aDirOut, some s.ctx.vDirOut),
          (s.ctx.aDirIn, some s.ctx.vDirIn), (s.ctx.aIn, none)]).flatten ∧
      t = { s with
        line := ⟨.input, .low⟩
        port := s.port ++ qs
        now := t.now
        draws := s.draws + 7 * is.length
        seq := { s.seq with
          i := is.getLast hne
          step := s.seq.step + 7 * is.length
          shift := t.seq.shift
          sample := t.seq.sample }
        hist := t.hist } := by
  induction is generalizing s with
  | nil => exact absurd rfl hne
  | cons i is ih =>
    obtain ⟨t1, t2, t3, t4, t5, t6, t7, l, w, h1, h2, h3, h4, h5, h6, h7, hl, hw, e⟩ := rslot_next p (some i) true c s hm
    have hsm : ∀ before l' u after, [Event.drive .outLow t1, .drive .dirOut t2, .wait p.T_RL (t3 - t2) t3,
          .drive .dirIn t4, .wait c.tWri.toNat (t5 - t4) t5, .sample l t6,
          .wait p.T_RREC (t7 - t6) t7] = before ++ .sample l' u :: after → l' = p.env s.epoch (s.hist ++ before) u := by
      intro before l' u after h
      rcases before with _|⟨a, _|⟨b, _|⟨c', _|⟨d, _|⟨e', _|⟨f, _|⟨g, _|⟨g', bb⟩⟩⟩⟩⟩⟩⟩⟩ <;> simp at h
      obtain ⟨rfl, rfl, rfl, rfl, rfl, ⟨rfl, rfl⟩, rfl⟩ := h
      exact hl
    rw [readSlotsAt, List.flatMap_cons, runMicros_append, under_eq_tagged, e, ← readSlotsAt]
    rcases is with _ | ⟨j, is⟩
    · refine ⟨_, _, slotWrites s.ctx ++ [.read s.ctx.aIn w], rfl, rfl, rfl,
        stamped_readSlot h1 h2 h3 h4 h5 h6 h7, ?_, hsm, ?_, ?_, ?_, ?_⟩
      · simp [shapeOf, readSlotShape]
      · rfl
      · rfl
      · simp [slotWrites, portTarget]
      · simp [readSlotsAt]
    · obtain ⟨t, es, qs, h, hh, hle, hst, hs, hsa, hln, hsh, hp, ht⟩ := ih { s with
        line := ⟨.input, .low⟩
        port := s.port ++ (slotWrites s.ctx ++ [.read s.ctx.aIn w])
        now := t7
        draws := s.draws + 7
        seq := { s.seq with
          i := (some i).getD s.seq.i
          step := s.seq.step + 7
          sample := l
          shift := if true then withBit s.seq.shift ((some i).getD s.seq.i) (levelBit l) else s.seq.shift }
        hist := s.hist ++ [.drive .outLow t1, .drive .dirOut t2, .wait p.T_RL (t3 - t2) t3,
          .drive .dirIn t4, .wait c.tWri.toNat (t5 - t4) t5, .sample l t6,
          .wait p.T_RREC (t7 - t6) t7] } (by simp) hm
      refine ⟨t, _, slotWrites s.ctx ++ [.read s.ctx.aIn w] ++ qs, h, by rw [hh, List.append_assoc], by simp [hle]; omega,
        (stamped_readSlot h1 h2 h3 h4 h5 h6 h7).append hst, ?_, ?_, ?_, ?_, ?_, ?_⟩
      · rw [List.filterMap_append, hs]
        simp [shapeOf, readSlotShape, List.replicate_succ]
      · intro before l' u after he
        rw [List.append_eq_append_iff] at he
        rcases he with ⟨as, ha, hb⟩ | ⟨bs, ha, hb⟩
        · have := hsa as l' u after hb
          rw [this, ha]; simp
        · rcases bs with _ | ⟨b, bs⟩
          · simp at ha hb
            have := hsa [] l' u after (by simp [← hb])
            rw [this, ← ha]; simp
          · simp at hb
            obtain ⟨rfl, hb⟩ := hb
            exact hsm _ _ _ _ ha
      · rw [List.filterMap_append, List.length_append, hln, List.length_cons (as := j :: is)]
        exact Nat.add_comm 1 _
      · rw [hsh, List.filterMap_append]; rfl
      · simp [hp, slotWrites, portTarget, List.replicate_succ]
      · rw [ht]; simp; omega

end Sys2Proof.Machine
end

