-- ==== Sys2Proof/Laws/HostPort.lean ====
section
/-! SUPPORT. What the host window admits, which register stands at an offset, and when a host action
takes effect (20_memory.md R60 to R65, R80). -/

namespace Sys2Proof.Machine

/-- An aligned 32-bit access inside the window is admitted (R62). -/
theorem windowOffset_aligned {off : Nat} (h : off < 0x100) (h4 : off % 4 = 0) :
    windowOffset Config.platform (Config.P_BASE + off) 4 = .ok off := by
  have : ¬ (Config.P_BASE + windowSize ≤ Config.P_BASE + off) := by unfold windowSize; omega
  simp [windowOffset, this, h4]

/-- An access of another width, or one that is not aligned, is refused (R62). -/
theorem windowOffset_refuses {off size : Nat} (h : off < 0x100) (h4 : size ≠ 4 ∨ off % 4 ≠ 0) :
    windowOffset Config.platform (Config.P_BASE + off) size =
      .error (if size ≠ 4 then .hostAccessWidth else .hostAccessMisaligned) := by
  have : ¬ (Config.P_BASE + windowSize ≤ Config.P_BASE + off) := by unfold windowSize; omega
  rcases h4 with h4 | h4 <;> by_cases hs : size = 4 <;> simp_all [windowOffset]

/-- Every register's offset is admitted. -/
@[simp] theorem windowOffset_regOffset (r : HostReg) :
    windowOffset Config.platform (Config.P_BASE + regOffset r) 4 = .ok (regOffset r) :=
  windowOffset_aligned (by cases r <;> decide) (by cases r <;> decide)

/-- CMD stands at the base itself. -/
@[simp] theorem windowOffset_base : windowOffset Config.platform Config.P_BASE 4 = .ok 0 :=
  windowOffset_aligned (off := 0) (by decide) rfl

/-- The register at a register's offset is that register (R61: no two share an offset). -/
@[simp] theorem regAt_regOffset (r : HostReg) : regAt (regOffset r) = some r := by
  cases r <;> rfl

/-- No register, no `regAt` (R64). -/
theorem regAt_unmapped {off : Nat} (h : ∀ r, regOffset r ≠ off) : regAt off = none := by
  simp only [regAt, List.find?_eq_none]
  intro r _
  simpa using h r

/-- A host action takes effect when no command runs (R80). -/
theorem takeAction_idle {s : State} {e : HostEntry} {rest : List HostEntry}
    (hi : s.inbox = e :: rest) (hb : s.seq.busy = false) :
    takeAction s = some (e.act, { s with inbox := rest }) := by
  simp [takeAction, hi, hb]

/-- An access that waits for BUSY = 0 lets the running command go on (R115). -/
theorem takeAction_waits {s : State} {a : HostAction} {rest : List HostEntry}
    (hi : s.inbox = ⟨none, a⟩ :: rest) (hb : s.seq.busy = true) : takeAction s = none := by
  cases a <;> simp [takeAction, hi, hb, actionDue, stopAt, HostEntry.stop]

/-- With no action to come, none takes effect. -/
theorem takeAction_empty {s : State} (hi : s.inbox = []) : takeAction s = none := by
  simp [takeAction, hi]

/-- A step at which a host action takes effect. -/
theorem step_of_takeAction {s s' : State} {a : HostAction} (h : takeAction s = some (a, s')) :
    step s = hostAct Config.platform a s' := by
  simp [step, h]

end Sys2Proof.Machine
end

