-- ==== Sys2Proof/Laws/PerInstr.lean ====
section
/-! SUPPORT. What holds of every command as syntax, one lemma per constructor: its word has the opcode
and the format of the opcode table, and every bit outside the operand fields is 0 (30_encoding.md R103,
R105, R107). -/

namespace Sys2Proof.Laws.EncodedFormat

/-- The opcode and the format of each command (R107). -/
def row : Instr → BitVec 5 × Format
  | .init => (0x01#5, .N)
  | .teardown => (0x02#5, .N)
  | .reset => (0x03#5, .N)
  | .writeBit _ => (0x04#5, .B)
  | .readBit => (0x05#5, .N)
  | .writeByte _ => (0x06#5, .D)
  | .readByte => (0x07#5, .N)
  | .setDirection _ => (0x08#5, .B)
  | .setLevel _ => (0x09#5, .B)
  | .readLevel => (0x0A#5, .N)
  | .delayUs _ => (0x0B#5, .T)
  | .delayMs _ => (0x0C#5, .T)
  | .crcClear => (0x0D#5, .N)
  | .crcUpdate _ => (0x0E#5, .D)
  | .getRomidCrcSupport => (0x0F#5, .N)

/-- The word of `i` has the opcode and format of its row, and its fixed bits hold the opcode alone. -/
def Statement (i : Instr) : Prop :=
  opField (encode i) = (row i).1 ∧ formatOf (row i).1 = some (row i).2 ∧
    encode i &&& (row i).2.mask = (row i).1.setWidth 32

/-- An operand at bits 16 and up does not reach OP. -/
theorem opField_high (op x : Word) : opField (op ||| x <<< 16) = opField op := by
  ext i hi
  have : (x <<< 16).getLsbD i = false := by simp; omega
  simp [opField, this]

/-- The operand of a D word meets no fixed bit of format D (R103). -/
theorem maskD_operand (d : Byte) : (d.setWidth 32 <<< 16) &&& Format.D.mask = 0#32 := by
  have hm : ∀ i < 32, 16 ≤ i → i < 24 → Format.D.mask.getLsbD i = false := by decide
  apply BitVec.eq_of_getLsbD_eq
  intro i hi
  by_cases h : 16 ≤ i ∧ i < 24
  · simp [hm i hi h.1 h.2]
  · have : (d.setWidth 32 <<< 16).getLsbD i = false := by
      by_cases h16 : 16 ≤ i
      · simp [BitVec.getLsbD_of_ge d (i - 16) (by omega)]
      · simp; omega
    simp only [BitVec.getLsbD_and, this, Bool.false_and, BitVec.getLsbD_zero]

/-- The operand of a T word meets no fixed bit of format T (R103). -/
theorem maskT_operand (n : BitVec 16) : (n.setWidth 32 <<< 16) &&& Format.T.mask = 0#32 := by
  have hm : ∀ i < 32, 16 ≤ i → Format.T.mask.getLsbD i = false := by decide
  apply BitVec.eq_of_getLsbD_eq
  intro i hi
  by_cases h : 16 ≤ i
  · simp [hm i hi h]
  · have : (n.setWidth 32 <<< 16).getLsbD i = false := by simp; omega
    simp only [BitVec.getLsbD_and, this, Bool.false_and, BitVec.getLsbD_zero]

/-- An opcode with an operand no fixed bit meets keeps its fixed bits. -/
theorem or_and_mask {op x m : Word} (hx : x &&& m = 0#32) (ho : op &&& m = op) :
    (op ||| x) &&& m = op := by
  rw [BitVec.and_comm, BitVec.and_or_distrib_left, BitVec.and_comm m op, BitVec.and_comm m x, hx, ho]
  simp

theorem init : Statement .init := ⟨rfl, rfl, rfl⟩
theorem teardown : Statement .teardown := ⟨rfl, rfl, rfl⟩
theorem reset : Statement .reset := ⟨rfl, rfl, rfl⟩
theorem writeBit (bit : Bool) : Statement (.writeBit bit) := by
  cases bit <;> exact ⟨rfl, rfl, rfl⟩
theorem readBit : Statement .readBit := ⟨rfl, rfl, rfl⟩
theorem writeByte (byte : Byte) : Statement (.writeByte byte) :=
  ⟨opField_high _ _, rfl, or_and_mask (m := Format.D.mask) (maskD_operand byte) (by decide)⟩
theorem readByte : Statement .readByte := ⟨rfl, rfl, rfl⟩
theorem setDirection (dir : Direction) : Statement (.setDirection dir) := by
  cases dir <;> exact ⟨rfl, rfl, rfl⟩
theorem setLevel (lvl : Level) : Statement (.setLevel lvl) := by
  cases lvl <;> exact ⟨rfl, rfl, rfl⟩
theorem readLevel : Statement .readLevel := ⟨rfl, rfl, rfl⟩
theorem delayUs (n : BitVec 16) : Statement (.delayUs n) :=
  ⟨opField_high _ _, rfl, or_and_mask (m := Format.T.mask) (maskT_operand n) (by decide)⟩
theorem delayMs (n : BitVec 16) : Statement (.delayMs n) :=
  ⟨opField_high _ _, rfl, or_and_mask (m := Format.T.mask) (maskT_operand n) (by decide)⟩
theorem crcClear : Statement .crcClear := ⟨rfl, rfl, rfl⟩
theorem crcUpdate (byte : Byte) : Statement (.crcUpdate byte) :=
  ⟨opField_high _ _, rfl, or_and_mask (m := Format.D.mask) (maskD_operand byte) (by decide)⟩
theorem getRomidCrcSupport : Statement .getRomidCrcSupport := ⟨rfl, rfl, rfl⟩

end Sys2Proof.Laws.EncodedFormat
end

