-- ==== Sys2Proof/Tests/Slice0.lean ====
section
/-! SUPPORT. Tests, each with its expected result from 95_test_vectors.md (TV), and for each statement
of Obligations.lean that has hypotheses a state that meets them. -/

namespace Sys2Proof.Tests

open Sys2Proof.Machine

/-! ### Decode (TV section 2) -/

theorem test_decode_init : decode 0x00000001#32 = .ok .init := by decide
theorem test_decode_teardown : decode 0x00000002#32 = .ok .teardown := by decide
theorem test_decode_reset : decode 0x00000003#32 = .ok .reset := by decide
theorem test_decode_write_bit : decode 0x00000104#32 = .ok (.writeBit true) := by decide
theorem test_decode_read_bit : decode 0x00000005#32 = .ok .readBit := by decide
theorem test_decode_write_byte : decode 0x00A50006#32 = .ok (.writeByte 0xA5#8) := by decide
theorem test_decode_read_byte : decode 0x00000007#32 = .ok .readByte := by decide
theorem test_decode_set_direction : decode 0x00000108#32 = .ok (.setDirection .output) := by decide
theorem test_decode_set_level : decode 0x00000109#32 = .ok (.setLevel .high) := by decide
theorem test_decode_read_level : decode 0x0000000A#32 = .ok .readLevel := by decide
theorem test_decode_delay_us : decode 0xFFFF000B#32 = .ok (.delayUs 65535#16) := by decide
theorem test_decode_delay_ms : decode 0x8000000C#32 = .ok (.delayMs 32768#16) := by decide
theorem test_decode_crc_clear : decode 0x0000000D#32 = .ok .crcClear := by decide
theorem test_decode_crc_update : decode 0x0001000E#32 = .ok (.crcUpdate 0x01#8) := by decide
theorem test_decode_getrcs : decode 0x0000000F#32 = .ok .getRomidCrcSupport := by decide

/-- The illegal words of TV section 2, OP legal or not. -/
theorem test_decode_illegal :
    [0x00000000#32, 0x00000101#32, 0x00010001#32, 0x00000021#32, 0x80000003#32, 0x00000084#32,
      0x00000204#32, 0x01000006#32, 0x0000A506#32, 0x0000010A#32, 0xFFFF010B#32, 0x0001000D#32,
      0x0000010F#32, 0x00000010#32, 0x0000001F#32].all (fun w => (decode w).toOption.isNone) = true := by
  decide

/-- The table's numbering: byte 0 of the word is bits 7 to 0. -/
theorem test_decode_table_word :
    decodeTableWord 32 0x00A50006 = some (.writeByte 0xA5#8) ∧ decodeTableWord 32 0x103 = none := by
  decide

/-! ### The checks of an assembler line (R115) -/

theorem test_wellformed_wbit : (AsmLine.wbit 1).wellFormed = true ∧ (AsmLine.wbit 2).wellFormed = false := by
  decide
theorem test_wellformed_wbyte :
    (AsmLine.wbyte 0xFF).wellFormed = true ∧ (AsmLine.wbyte 0x100).wellFormed = false := by decide
theorem test_wellformed_crc_upd :
    (AsmLine.crcUpd 0xFF).wellFormed = true ∧ (AsmLine.crcUpd 0x100).wellFormed = false := by decide
theorem test_wellformed_delay_us :
    (AsmLine.delayUs 0xFFFF).wellFormed = true ∧ (AsmLine.delayUs 0x10000).wellFormed = false := by
  decide
theorem test_wellformed_delay_ms :
    (AsmLine.delayMs 0xFFFF).wellFormed = true ∧ (AsmLine.delayMs 0x10000).wellFormed = false := by
  decide
theorem test_assemble :
    (assemble (.wbyte 0xA5)).map encode = some 0x00A50006#32 ∧ assemble (.wbyte 0x100) = none := by
  decide

/-! ### A reference machine (TV section 0) -/

/-- The reference parameters of TV section 0, with an environment of the history and the time. -/
def reference (env : List Event → Nat → Level) : Platform where
  P_BASE := 0x1000
  PAD_DRIVE := .openDrain
  T_RSTL := 480
  T_PDS := 70
  T_RSTREC := 410
  T_W1L := 6
  T_W1H := 64
  T_W0REC := 10
  T_RL := 6
  T_RREC := 55
  DELAY_JITTER := 0
  T_GPIO_MAX := 0
  ROMID_LEN := 8
  env _ h t := env h t
  gpioDraw _ := 0
  delayDraw _ := 0
  contention _ := .low
  inputBits _ := 0xFFFFFFFF#32

/-- `NoSlave`. -/
def noSlave : Platform := reference fun _ _ => .high

/-- `StuckLow`. -/
def stuckLow : Platform := reference fun _ _ => .low

/-- `Echo`. -/
def echo : Platform := reference fun h _ => echoEnv h

/-- `Seq`. -/
def seqOf (ls : List Level) : Platform :=
  reference fun h _ => ls.getD (h.filterMap sampled).length .high

/-- The staging registers S0. -/
def stagingS0 : Staging where
  outHighAddrLo := 0xF1000004#32
  outHighAddrHi := 0#32
  outHighVal := 2#32
  outLowAddrLo := 0xF1000008#32
  outLowAddrHi := 0#32
  outLowVal := 2#32
  dirOutAddrLo := 0xF100000C#32
  dirOutAddrHi := 0#32
  dirOutVal := 2#32
  dirInAddrLo := 0xF1000010#32
  dirInAddrHi := 0#32
  dirInVal := 2#32
  inAddrLo := 0xF1000000#32
  inAddrHi := 0#32
  inMask := 2#32
  pin := 1#32
  version := 1#32
  tWbl := 60#32
  tWri := 9#32
  flag0 := true

/-- S0 staged, no context. -/
def bare : State := { State.reset with staging := stagingS0 }

/-- S0 staged and active, the line as `l` says. -/
def ready (l : Line) : State :=
  { bare with ctx := snapshotOf stagingS0, ctxValid := true, line := l }

/-- `i` accepted in `s`. -/
def asked (i : Instr) (s : State) : State := accept (encode i) s

/-- `i` accepted after INIT's end state. -/
def given (i : Instr) : State := asked i (ready ⟨.output, .high⟩)

/-- The next state, or reset where there is none. -/
def after (o : Host.Outcome State Fault Refusal) : State :=
  match o with
  | .next s => s
  | .fault _ | .refused _ => State.reset

/-- `i` run on `p` in `s`. -/
def ran (p : Platform) (i : Instr) (s : State) : State := after (execOn p i (asked i s))

/-- What the port carried of 32-bit writes and reads: addresses only. -/
def touched (s : State) : List Addr := s.port.map fun a => (portTarget a).1

/-! ### Lifecycle from reset (TV section 2, section 8) -/

/-- STATUS after the word `w` from reset. -/
def statusAfter (w : Nat) : Word := statusWord (after (step (State.reset.withFetchWord 32 w)))

theorem test_illegal_opcode : statusAfter 0x10 = 0x00000482#32 := by decide
theorem test_illegal_before_uninit : statusAfter 0x103 = 0x00000482#32 := by decide
theorem test_reset_uninit : statusAfter 0x03 = 0x00000182#32 := by decide
theorem test_read_byte_uninit : statusAfter 0x07 = 0x00000182#32 := by decide
theorem test_teardown_uninit : statusAfter 0x02 = 0x00000182#32 := by decide
theorem test_getrcs_uninit : statusAfter 0x0F = 0x00000182#32 := by decide
theorem test_init_invalid : statusAfter 0x01 = 0x00000282#32 := by decide
theorem test_delay_us_needs_no_context : statusAfter 0x0B = 0x00000082#32 := by decide

/-- The reset runs no program: the idle machine stays as it is. -/
theorem test_reset_idle : step State.reset = .next State.reset := rfl

/-! ### Session (TV section 7) -/

theorem test_init : statusWord (ran noSlave .init bare) = 0x000000C6#32 ∧
    touched (ran noSlave .init bare) = [0xF1000004#64, 0xF100000C#64] := by decide +kernel

/-- The address halves are one 64-bit address: `CFG_OUT_HIGH_ADDR_HI = 1` with LO = 0 is not null. -/
theorem test_init_high_half :
    touched (ran noSlave .init { bare with
      staging := { stagingS0 with outHighAddrLo := 0#32, outHighAddrHi := 1#32 } }) =
      [0x0000000100000000#64, 0xF100000C#64] := by decide +kernel

theorem test_init_again : statusWord (ran noSlave .init (ready ⟨.output, .high⟩)) = 0x000003C6#32 := by
  decide +kernel

theorem test_teardown : statusWord (ran noSlave .teardown (ready ⟨.output, .high⟩)) = 0x00000082#32 ∧
    touched (ran noSlave .teardown (ready ⟨.output, .high⟩)) = [0xF1000010#64] := by decide +kernel

/-- The flag is the context's, not the staging register's (TV V1.6). -/
theorem test_getrcs : (ran noSlave .getRomidCrcSupport { ready ⟨.output, .high⟩ with
    staging := { stagingS0 with flag0 := false } }).rxdata = 1#8 := by decide +kernel

/-! ### Line driver (TV section 3) -/

theorem test_set_level_low : (ran noSlave (.setLevel .low) (ready ⟨.output, .high⟩)).line = ⟨.output, .low⟩ ∧
    touched (ran noSlave (.setLevel .low) (ready ⟨.output, .high⟩)) = [0xF1000008#64] := by
  decide +kernel

theorem test_set_level_latch : (ran noSlave (.setLevel .high) (ready ⟨.input, .low⟩)).line = ⟨.input, .high⟩ := by
  decide +kernel

theorem test_set_direction_unchanged :
    touched (ran noSlave (.setDirection .output) (ready ⟨.output, .high⟩)) = [0xF100000C#64] := by
  decide +kernel

theorem test_set_direction_in :
    (ran noSlave (.setDirection .input) (ready ⟨.output, .low⟩)).line = ⟨.input, .low⟩ := by
  decide +kernel

/-- OWM's own low, with no slave. -/
theorem test_read_level_own_low : (ran noSlave .readLevel (ready ⟨.output, .low⟩)).rxdata = 0#8 := by
  decide +kernel

/-- Every input bit but the pin's is 1, and the read is Low. -/
theorem test_read_level_mask : (ran stuckLow .readLevel (ready ⟨.input, .low⟩)).rxdata = 0#8 ∧
    (ran noSlave .readLevel (ready ⟨.input, .low⟩)).rxdata = 1#8 := by decide +kernel

/-! ### Delays (TV section 4) -/

theorem test_delay_us : (ran noSlave (.delayUs 480#16) bare).now = 480 := by decide +kernel
theorem test_delay_ms_no_wrap : (ran noSlave (.delayMs 65535#16) bare).now = 65535000 := by
  decide +kernel

/-! ### Transport (TV section 5) -/

theorem test_reset_events : (ran noSlave .reset (ready ⟨.output, .high⟩)).hist =
    [.cmdStart 0x03#32 0, .drive .outLow 0, .drive .dirOut 0, .wait 480 480 480, .drive .dirIn 480,
      .wait 70 70 550, .sample .high 550, .wait 410 410 960, .cmdEnd 3#5 .none 960] := by
  decide +kernel

theorem test_reset_presence : statusWord (ran stuckLow .reset (ready ⟨.output, .high⟩)) = 0x0000000E#32 ∧
    statusWord (ran noSlave .reset (ready ⟨.output, .high⟩)) = 0x00000006#32 := by decide +kernel

theorem test_write_bit_0 : (ran noSlave (.writeBit false) (ready ⟨.output, .high⟩)).hist =
    [.cmdStart 0x04#32 0, .drive .outLow 0, .drive .dirOut 0, .wait 60 60 60, .drive .dirIn 60,
      .wait 10 10 70, .cmdEnd 4#5 .none 70] := by decide +kernel

theorem test_write_bit_1 : (ran noSlave (.writeBit true) (ready ⟨.output, .high⟩)).hist =
    [.cmdStart 0x104#32 0, .drive .outLow 0, .drive .dirOut 0, .wait 6 6 6, .drive .dirIn 6,
      .wait 64 64 70, .cmdEnd 4#5 .none 70] := by decide +kernel

/-- A slave that holds the wire low over [0, 12) has let go at the sample. -/
theorem test_read_bit_sample_time :
    (ran (reference fun _ t => if t < 12 then .low else .high) .readBit (ready ⟨.output, .high⟩)).rxdata
      = 1#8 := by decide +kernel

/-- A slave that holds the wire low over [0, 30) is read as 0. -/
theorem test_read_bit_zero :
    (ran (reference fun _ t => if t < 30 then .low else .high) .readBit (ready ⟨.output, .high⟩)).rxdata
      = 0#8 := by decide +kernel

/-- `wbyte 0x0F` with `ctx.t_wbl = 100` lasts 4 · 70 + 4 · 110. -/
theorem test_write_byte_time : (ran noSlave (.writeByte 0x0F#8) { ready ⟨.output, .high⟩ with
    ctx := { snapshotOf stagingS0 with tWbl := 100#32 } }).now = 720 := by decide +kernel

/-- `wbyte 0xA5` sends 1 0 1 0 0 1 0 1: the low times. -/
theorem test_write_byte_order : ((ran noSlave (.writeByte 0xA5#8) (ready ⟨.output, .high⟩)).hist.filterMap
    fun e => match e with
      | .wait n _ _ => if n = 6 ∨ n = 60 then some n else none
      | _ => none) = [6, 60, 6, 60, 60, 6, 60, 6] := by decide +kernel

theorem test_read_byte_order :
    (ran (seqOf [.high, .low, .high, .low, .low, .high, .low, .high]) .readByte
      (ready ⟨.output, .high⟩)).rxdata = 0xA5#8 := by decide +kernel

/-- Program P2 of TV section 9: loopback, 1120 µs. -/
theorem test_loopback :
    let s := ran echo .readByte (ran echo (.writeByte 0xA5#8) (ready ⟨.output, .high⟩))
    s.rxdata = 0xA5#8 ∧ s.now = 1120 ∧ statusWord s = 0x00000006#32 := by decide +kernel

/-! ### CRC (TV section 6) -/

theorem test_crc_single_bytes : [0x00#8, 0x01#8, 0x33#8, 0x5E#8, 0x80#8, 0x8C#8, 0xA5#8, 0xFF#8].map
    (crcByte 0#8) = [0x00#8, 0x5E#8, 0x5C#8, 0xC4#8, 0x8C#8, 0x2F#8, 0x90#8, 0x35#8] := by
  decide +kernel

theorem test_crc_rom_id :
    crc8 [0x02#8, 0x1C#8, 0xB8#8, 0x01#8, 0x00#8, 0x00#8, 0x00#8] = 0xA2#8 := by decide +kernel

/-- `crc.upd` twice from `crc.clr`: 01 5E gives 0x00020000 and CRC_OK. -/
theorem test_crc_update :
    let s := ran noSlave (.crcUpdate 0x5E#8) (ran noSlave (.crcUpdate 0x01#8) State.reset)
    crcWord s = 0x00020000#32 ∧ crcOk s = true := by decide +kernel

/-- The count stops at 0xFFFF. -/
theorem test_crc_update_saturates :
    (ran noSlave (.crcUpdate 0#8) { State.reset with crcCount := 0xFFFF#16 }).crcCount = 0xFFFF#16 := by
  decide +kernel

theorem test_crc_clear :
    crcWord (ran noSlave .crcClear { State.reset with crcAcc := 0x83#8, crcCount := 8#16 }) = 0#32 := by
  decide +kernel

/-! ### The host window (TV section 2, section 9 P4) -/

/-- STATUS between RESET's acceptance and its completion; then a dropped `rbit`, and RESET goes on. -/
theorem test_dropped :
    let s := given .reset
    statusWord s = 0x000000C5#32 ∧
      statusWord (after (execOn noSlave .reset (writeReg .CMD 0x05#32 s))) = 0x00000806#32 ∧
      statusWord (writeReg .STATUS 0x800#32
        (after (execOn noSlave .reset (writeReg .CMD 0x05#32 s)))) = 0x00000006#32 := by
  decide +kernel

/-- CFG_FLAGS keeps bit 0 only (R24). -/
theorem test_cfg_flags_mask :
    readReg (writeReg .CFG_FLAGS 0xFFFFFFFF#32 State.reset) .CFG_FLAGS = 1#32 := by decide

/-- The byte at offset 5 is bits 15 to 8 of STATUS (R63). -/
theorem test_window_byte : windowByte 0x005 { State.reset with ovr := true } = 0x08#8 ∧
    windowByte 0x004 { State.reset with ovr := true } = 0x80#8 := by decide

/-- Each command of an expansion is followed by `wait`, the last one too (R116). -/
theorem test_expand_wbytes : expand noSlave (.wbytes [0xA5#8, 0x01#8]) =
    [⟨some 0, .store 0x1000 4 0x00A50006#32⟩, ⟨some 0, .wait⟩,
      ⟨some 0, .store 0x1000 4 0x00010006#32⟩, ⟨some 0, .wait⟩] := by decide

/-- `rbyte`, `wait`, `r <- RXDATA` (R116). -/
theorem test_expand_rbytes : expand noSlave (.rbytes 1) =
    [⟨some 0, .store 0x1000 4 0x00000007#32⟩, ⟨some 0, .wait⟩, ⟨some 0, .load 0x1008 4⟩] := by
  decide

/-! ### Witnesses -/

/-- A host's store. -/
def storeAt (off : Nat) (w : Word) : HostAction := .store (Config.P_BASE + off) 4 w

/-- A host's load. -/
def loadAt (off : Nat) : HostAction := .load (Config.P_BASE + off) 4

/-- `s` with one coming action, due at once. -/
def facing (a : HostAction) (s : State) : State := { s with inbox := [⟨some 0, a⟩] }

theorem fresh_given (i : Instr) : Fresh (given i) ∧ (given i).ctxValid = true ∧
    (given i).ctx.mIn ≠ 0#32 :=
  ⟨⟨rfl, rfl⟩, rfl, show (2#32 : Word) ≠ 0#32 by decide⟩

theorem witness_EveryLegalWordIsItsCommandsWord : decode 0xFFFF000C#32 = .ok (.delayMs 0xFFFF#16) := by
  decide

/-- OP at the ends of the legal range, and an accepted word above it. -/
theorem witness_LegalWordsAndIllegalCompletion :
    decode 0x01#32 = .ok .init ∧ decode 0x0F#32 = .ok .getRomidCrcSupport ∧
      (accept 0x10#32 State.reset).seq.busy = true ∧ actionDue (accept 0x10#32 State.reset) = false ∧
      ∀ i, decode (accept 0x10#32 State.reset).seq.word ≠ .ok i := by
  refine ⟨by decide, by decide, rfl, rfl, fun i h => ?_⟩
  have : decode (accept 0x10#32 State.reset).seq.word = .error (.illegalOpcode 0x10#5) := by decide
  rw [this] at h
  cases h

theorem witness_StepRunsTheDecodedCommand : (given .readByte).seq.busy = true ∧
    actionDue (given .readByte) = false ∧ decode (given .readByte).seq.word = .ok .readByte := by
  decide

/-- An action that lands at its count; one that finds OWM idle; a wait, an idle gap, an action without a
count and one with a later count before a running command; a wait with OWM idle; the end of a run. -/
theorem witness_HostActionsLandInOrder :
    ((facing .blockReset (given .reset)).inbox = [⟨some 0, .blockReset⟩] ∧
      0 ≤ (facing .blockReset (given .reset)).seq.step ∧ HostAction.blockReset ≠ .wait ∧
      ∀ d, HostAction.blockReset ≠ .idle d) ∧
    ((facing (.idle 3) bare).inbox = [⟨some 0, .idle 3⟩] ∧ (facing (.idle 3) bare).seq.busy = false) ∧
    ((facing .wait (given .reset)).inbox = [⟨some 0, .wait⟩] ∧
      (facing (.idle 3) (given .reset)).inbox = [⟨some 0, .idle 3⟩] ∧
      ({ given .reset with inbox := [⟨none, .blockReset⟩] } : State).inbox = [⟨none, .blockReset⟩] ∧
      ({ given .reset with inbox := [⟨some 1, .blockReset⟩] } : State).inbox =
        [⟨some 1, .blockReset⟩] ∧ (given .reset).seq.step < 1 ∧ (given .reset).seq.busy = true ∧
      decode (given .reset).seq.word = .ok .reset) ∧
    ((facing .wait bare).inbox = [⟨some 0, .wait⟩] ∧ (facing .wait bare).seq.busy = false) ∧
    (State.reset.seq.busy = false ∧ State.reset.inbox = []) :=
  ⟨⟨rfl, Nat.le_refl _, nofun, nofun⟩, ⟨rfl, rfl⟩,
    ⟨rfl, rfl, rfl, rfl, Nat.zero_lt_one, rfl, rfl⟩, ⟨rfl, rfl⟩, rfl, rfl⟩

theorem witness_CmdStoreIsAcceptedWhenIdle :
    takeAction (facing (.store Config.P_BASE 4 0x01#32) bare) =
      some (.store Config.P_BASE 4 0x01#32, { bare with inbox := [] }) ∧ bare.seq.busy = false :=
  ⟨rfl, rfl⟩

/-- A store under BUSY, a store that clears OVR, and a block reset that does. -/
theorem witness_CmdStoreIsDroppedWhenBusy :
    (takeAction (facing (.store Config.P_BASE 4 0x05#32) (given .reset)) =
        some (.store Config.P_BASE 4 0x05#32, given .reset) ∧ (given .reset).seq.busy = true) ∧
    (∃ t, step (facing (storeAt 4 0x800#32) { bare with ovr := true }) = .next t ∧ t.ovr = false) ∧
    ∃ t, step (facing .blockReset { bare with ovr := true }) = .next t ∧ t.ovr = false := by
  refine ⟨⟨rfl, rfl⟩, ⟨writeReg .STATUS 0x800#32 { bare with ovr := true }, ?_, rfl⟩, _, rfl, rfl⟩
  have h : windowOffset Config.platform (Config.P_BASE + 4) 4 = .ok 4 := windowOffset_regOffset .STATUS
  rw [step_of_takeAction (a := storeAt 4 0x800#32) (s' := { bare with ovr := true }) rfl]
  simp only [hostAct, storeAt, h]
  rfl

/-- The last staging register under BUSY, and the first while idle, by name and by offset. -/
theorem witness_StagingStoreChangesOneRegister :
    (isStagingReg .CFG_FLAGS = true ∧
      takeAction (facing (storeAt (regOffset .CFG_FLAGS) 3#32) (given .init)) =
        some (storeAt (regOffset .CFG_FLAGS) 3#32, given .init)) ∧
    (isStagingReg .CFG_OUT_HIGH_ADDR_LO = true ∧
      takeAction (facing (storeAt (regOffset .CFG_OUT_HIGH_ADDR_LO) 3#32) bare) =
        some (storeAt (regOffset .CFG_OUT_HIGH_ADDR_LO) 3#32, bare)) ∧
    (takeAction (facing (storeAt 0x020 3#32) bare) = some (storeAt 0x020 3#32, bare) ∧
      takeAction (facing (storeAt 0x080 3#32) bare) = some (storeAt 0x080 3#32, bare)) :=
  ⟨⟨rfl, rfl⟩, ⟨rfl, rfl⟩, rfl, rfl⟩

/-- A register by name; the first and the last of the map by offset. -/
theorem witness_LoadsReturnTheRegisterAtTheirOffset :
    takeAction (facing (loadAt (regOffset .STATUS)) (given .reset)) =
      some (loadAt (regOffset .STATUS), given .reset) ∧
    takeAction (facing (loadAt 0x000) bare) = some (loadAt 0x000, bare) ∧
    takeAction (facing (loadAt 0x080) bare) = some (loadAt 0x080, bare) := ⟨rfl, rfl, rfl⟩

theorem witness_StatusFieldsAndClear :
    takeAction (facing (storeAt 4 0xFFFFFFFF#32) bare) = some (storeAt 4 0xFFFFFFFF#32, bare) := rfl

theorem witness_DataRegistersReadAndIgnoreStores :
    takeAction (facing (storeAt 8 1#32) bare) = some (storeAt 8 1#32, bare) ∧
      takeAction (facing (storeAt 12 1#32) bare) = some (storeAt 12 1#32, bare) := ⟨rfl, rfl⟩

/-- The offsets of the register map (R61). -/
def mapped : List Nat :=
  [0x000, 0x004, 0x008, 0x00C, 0x020, 0x024, 0x028, 0x030, 0x034, 0x038, 0x040, 0x044, 0x048,
    0x050, 0x054, 0x058, 0x060, 0x064, 0x068, 0x070, 0x074, 0x078, 0x07C, 0x080]

/-- The first unmapped offset and the last of the window, loaded and stored to. -/
theorem witness_UnmappedOffsetsReadZeroIgnoreWrites :
    ((0x10 < 0x100 ∧ 0x10 % 4 = 0 ∧ 0x10 ∉ mapped) ∧
      takeAction (facing (loadAt 0x10) bare) = some (loadAt 0x10, bare)) ∧
    ((0xFC < 0x100 ∧ 0xFC % 4 = 0 ∧ 0xFC ∉ mapped) ∧
      takeAction (facing (storeAt 0xFC 1#32) bare) = some (storeAt 0xFC 1#32, bare)) :=
  ⟨⟨by decide, rfl⟩, by decide, rfl⟩

/-- A byte load at the last offset of the window, a word store at offset 2, and a word store at the
first address above the window. -/
theorem witness_OtherWidthsAndMisalignedRefused :
    ((0xFF < 0x100 ∧ (1 ≠ 4 ∨ 0xFF % 4 ≠ 0)) ∧
      takeAction (facing (.load (Config.P_BASE + 0xFF) 1) bare) =
        some (.load (Config.P_BASE + 0xFF) 1, bare)) ∧
    ((2 < 0x100 ∧ (4 ≠ 4 ∨ 2 % 4 ≠ 0)) ∧
      takeAction (facing (.store (Config.P_BASE + 2) 4 0#32) bare) =
        some (.store (Config.P_BASE + 2) 4 0#32, bare)) ∧
    (Config.P_BASE + 0x100 ≤ Config.P_BASE + 0x100 ∧
      takeAction (facing (.store (Config.P_BASE + 0x100) 4 0#32) bare) =
        some (.store (Config.P_BASE + 0x100) 4 0#32, bare)) :=
  ⟨⟨⟨by decide, by decide⟩, rfl⟩, ⟨⟨by decide, by decide⟩, rfl⟩, Nat.le_refl _, rfl⟩

theorem witness_WindowIsLittleEndian : 3 < 4 := by decide

theorem witness_IdleGapAdvancesTime :
    takeAction (facing (.idle 5) bare) = some (.idle 5, bare) := rfl

theorem witness_ResetValues : isStagingReg .CFG_OUT_HIGH_ADDR_LO = true ∧
    isStagingReg .CFG_FLAGS = true := ⟨rfl, rfl⟩

/-- A block reset in the middle of a command. -/
theorem witness_BlockResetAbandonsTheCommand :
    takeAction (facing .blockReset { given .readByte with seq := { (given .readByte).seq with step := 9 } }) =
      some (.blockReset, { given .readByte with seq := { (given .readByte).seq with step := 9 } }) := rfl

/-- No context; a context; no context and the last checked field 0. -/
theorem witness_FailedChecksWriteOnlyTheirResult :
    (Fresh (asked .readByte bare) ∧ (asked .readByte bare).ctxValid = false ∧
      needsCtx .readByte = true) ∧
    (Fresh (given .init) ∧ (given .init).ctxValid = true) ∧
    (Fresh (asked .init State.reset) ∧ (asked .init State.reset).ctxValid = false ∧
      (asked .init State.reset).seq.snapshot.tWri = 0#32) :=
  ⟨⟨⟨rfl, rfl⟩, rfl, rfl⟩, ⟨⟨rfl, rfl⟩, rfl⟩, ⟨rfl, rfl⟩, rfl, rfl⟩

theorem witness_OneOutcomePerCommandWordByPriority :
    (takeAction (facing (.store Config.P_BASE 4 0x10#32) (given .reset)) =
        some (.store Config.P_BASE 4 0x10#32, given .reset) ∧
      (facing (.store Config.P_BASE 4 0x10#32) (given .reset)).seq.busy = true) ∧
    ((facing (.store Config.P_BASE 4 0x103#32) bare).seq.busy = false ∧
      (facing (.store Config.P_BASE 4 0x103#32) bare).inbox =
        [⟨some 0, .store Config.P_BASE 4 0x103#32⟩]) := ⟨⟨rfl, rfl⟩, rfl, rfl⟩

theorem witness_InitStoresTheSnapshotAndIdles :
    Fresh (asked .init bare) ∧ (asked .init bare).ctxValid = false ∧
    (asked .init bare).seq.snapshot.aOutHigh ≠ 0#64 ∧ (asked .init bare).seq.snapshot.aOutLow ≠ 0#64 ∧
    (asked .init bare).seq.snapshot.aDirOut ≠ 0#64 ∧ (asked .init bare).seq.snapshot.aDirIn ≠ 0#64 ∧
    (asked .init bare).seq.snapshot.aIn ≠ 0#64 ∧ (asked .init bare).seq.snapshot.mIn ≠ 0#32 ∧
    (asked .init bare).seq.snapshot.tWbl ≠ 0#32 ∧ (asked .init bare).seq.snapshot.tWri ≠ 0#32 :=
  ⟨⟨rfl, rfl⟩, by decide⟩

theorem witness_TeardownReleasesAndEndsTheContext :
    Fresh (given .teardown) ∧ (given .teardown).ctxValid = true := ⟨⟨rfl, rfl⟩, rfl⟩

theorem witness_GetRomidCrcSupportReturnsTheContextsFlag :
    Fresh (given .getRomidCrcSupport) ∧ (given .getRomidCrcSupport).ctxValid = true := ⟨⟨rfl, rfl⟩, rfl⟩

theorem witness_SetDirectionDrivesThePin :
    Fresh (given (.setDirection .input)) ∧ (given (.setDirection .input)).ctxValid = true :=
  ⟨⟨rfl, rfl⟩, rfl⟩

theorem witness_SetLevelDrivesTheLatch :
    Fresh (given (.setLevel .low)) ∧ (given (.setLevel .low)).ctxValid = true := ⟨⟨rfl, rfl⟩, rfl⟩

theorem witness_ReadLevelSamplesTheWire : Fresh (given .readLevel) ∧
    (given .readLevel).ctxValid = true ∧ (given .readLevel).ctx.mIn ≠ 0#32 := fresh_given _

/-- One state and platform for each clause. -/
theorem witness_WireLevel :
    ((ready ⟨.output, .low⟩).line.dir = .output ∧ (ready ⟨.output, .low⟩).line.lvl = .low) ∧
    ((ready ⟨.output, .high⟩).line.dir = .output ∧ (ready ⟨.output, .high⟩).line.lvl = .high ∧
      ({ noSlave with PAD_DRIVE := .pushPull } : Platform).PAD_DRIVE = .pushPull ∧
      ({ noSlave with PAD_DRIVE := .pushPull } : Platform).env 0 [] 7 = .high) ∧
    ((ready ⟨.output, .high⟩).line.dir = .output ∧ (ready ⟨.output, .high⟩).line.lvl = .high ∧
      stuckLow.PAD_DRIVE = .openDrain) ∧
    (ready ⟨.input, .low⟩).line.dir = .input :=
  ⟨⟨rfl, rfl⟩, ⟨rfl, rfl, rfl, rfl⟩, ⟨rfl, rfl, rfl⟩, rfl⟩

theorem witness_DelayUsWaitsItsOperand : Fresh (asked (.delayUs 0xFFFF#16) bare) := ⟨rfl, rfl⟩

theorem witness_DelayMsWaitsAThousandTimesItsOperand : Fresh (asked (.delayMs 0xFFFF#16) bare) :=
  ⟨rfl, rfl⟩

theorem witness_ResetDetectsPresence : Fresh (given .reset) ∧ (given .reset).ctxValid = true ∧
    (given .reset).ctx.mIn ≠ 0#32 := fresh_given _

theorem witness_WriteBitSendsOneSlot :
    Fresh (given (.writeBit true)) ∧ (given (.writeBit true)).ctxValid = true := ⟨⟨rfl, rfl⟩, rfl⟩

theorem witness_ReadBitReturnsTheSample : Fresh (given .readBit) ∧ (given .readBit).ctxValid = true ∧
    (given .readBit).ctx.mIn ≠ 0#32 := fresh_given _

theorem witness_WriteByteSendsEightSlotsLsbFirst :
    Fresh (given (.writeByte 0xA5#8)) ∧ (given (.writeByte 0xA5#8)).ctxValid = true :=
  ⟨⟨rfl, rfl⟩, rfl⟩

theorem witness_ReadByteAssemblesEightSamplesLsbFirst : Fresh (given .readByte) ∧
    (given .readByte).ctxValid = true ∧ (given .readByte).ctx.mIn ≠ 0#32 := fresh_given _

theorem witness_LoopbackReadsBackTheByteWritten : (∀ e h t, echo.env e h t = echoEnv h) ∧
    (ready ⟨.output, .high⟩).ctxValid = true ∧ (ready ⟨.output, .high⟩).ctx.mIn ≠ 0#32 ∧
    (ready ⟨.output, .high⟩).inbox = [] := ⟨fun _ _ _ => rfl, rfl, by decide, rfl⟩

theorem witness_ConstantBusIsReadAsIs :
    (∀ e h t, noSlave.env e h t = .high) ∧ (∀ e h t, stuckLow.env e h t = .low) ∧
      Fresh (given .reset) ∧ (given .reset).ctxValid = true ∧ (given .reset).ctx.mIn ≠ 0#32 :=
  ⟨fun _ _ _ => rfl, fun _ _ _ => rfl, fresh_given _⟩

/-- A command under a context, INIT with a good snapshot, and a command that needs no context. -/
theorem witness_CommandsCompleteWithinTheirDurations :
    (Fresh (given .readByte) ∧ Passes .readByte (given .readByte)) ∧
    (Fresh (asked .init bare) ∧ Passes .init (asked .init bare)) ∧
    (Fresh (asked .crcClear bare) ∧ Passes .crcClear (asked .crcClear bare)) :=
  ⟨⟨⟨rfl, rfl⟩, rfl⟩, ⟨⟨rfl, rfl⟩, rfl⟩, ⟨rfl, rfl⟩, rfl⟩

theorem witness_CrcClearZeroesTheAccumulator : Fresh (asked .crcClear bare) := ⟨rfl, rfl⟩

theorem witness_CrcUpdateFoldsOneByte : Fresh (asked (.crcUpdate 0xFF#8) bare) := ⟨rfl, rfl⟩

theorem witness_ComputeCrc8Program :
    ({ bare with inbox := expand Config.platform (.computeCrc8 [1#8, 2#8]) } : State).seq.busy = false :=
  rfl

theorem witness_RomidCrcValidProgram :
    ({ bare with inbox := expand Config.platform (.romidCrcValid []) } : State).seq.busy = false := rfl

theorem witness_IdleProgramRestoresTheIdleLine :
    ({ ready ⟨.input, .low⟩ with inbox := expand Config.platform .idle } : State).seq.busy = false ∧
      ({ ready ⟨.input, .low⟩ with inbox := expand Config.platform .idle } : State).ctxValid = true :=
  ⟨rfl, rfl⟩

theorem witness_PresenceProgram :
    ({ ready ⟨.output, .high⟩ with inbox := expand Config.platform .presence } : State).seq.busy = false ∧
      (ready ⟨.output, .high⟩).ctxValid = true ∧ (ready ⟨.output, .high⟩).ctx.mIn ≠ 0#32 :=
  ⟨rfl, rfl, by decide⟩

theorem witness_ByteSequencePrograms :
    (({ ready ⟨.output, .high⟩ with inbox := expand Config.platform (.wbytes [0xA5#8, 1#8]) } :
        State).seq.busy = false ∧ (ready ⟨.output, .high⟩).ctxValid = true) ∧
    (({ ready ⟨.output, .high⟩ with inbox := expand Config.platform (.rbytes 2) } :
        State).seq.busy = false ∧ (ready ⟨.output, .high⟩).ctx.mIn ≠ 0#32) :=
  ⟨⟨rfl, rfl⟩, rfl, by decide⟩

/-- INIT, TEARDOWN and a block reset change the context. -/
theorem witness_ContextChangesOnlyByInitAndTeardown :
    (∃ t, step (asked .init bare) = .next t ∧ t.ctxValid ≠ (asked .init bare).ctxValid) ∧
    (∃ t, step (given .teardown) = .next t ∧ t.ctxValid ≠ (given .teardown).ctxValid) ∧
    ∃ t, step (facing .blockReset (given .reset)) = .next t ∧ t.ctx ≠ (given .reset).ctx :=
  ⟨⟨_, rfl, by decide⟩, ⟨_, rfl, by decide⟩, _, rfl, by decide⟩

/-- The invariant in a state with a command accepted and no context. -/
theorem inv_asked_reset (i : Instr) (hr : runningOk (asked i State.reset) = true)
    (hl : lifecycleOk (asked i State.reset) = true) : Inv (asked i State.reset) where
  ctx_valid := nofun
  lifecycle := hl
  running := hr
  ordered := List.pairwise_singleton _ _
  past := fun e he => by
    rw [List.mem_singleton.1 he]
    exact Nat.le_refl _
  line_tracked := rfl
  accesses := rfl
  completions := rfl

/-- The invariant in a state with a context and a command accepted. -/
theorem inv_ready (i : Instr) (hr : runningOk (asked i (ready Line.reset)) = true)
    (hl : lifecycleOk (asked i (ready Line.reset)) = true) : Inv (asked i (ready Line.reset)) where
  ctx_valid := fun _ => show valid (snapshotOf stagingS0) = true by decide
  lifecycle := hl
  running := hr
  ordered := List.pairwise_singleton _ _
  past := fun e he => by
    rw [List.mem_singleton.1 he]
    exact Nat.le_refl _
  line_tracked := rfl
  accesses := rfl
  completions := rfl

theorem witness_ContextIsUnobservableWhileInvalid :
    Inv (asked .readByte State.reset) ∧ (asked .readByte State.reset).ctxValid = false :=
  ⟨inv_asked_reset _ rfl rfl, rfl⟩

/-- A RESET that fails clears an old PRESENCE; so does a block reset. -/
theorem witness_PresenceChangesOnlyByReset :
    (∃ t, step (asked .reset { bare with presence := true }) = .next t ∧ t.presence ≠ true) ∧
    ∃ t, step (facing .blockReset { bare with presence := true }) = .next t ∧ t.presence ≠ true :=
  ⟨⟨_, rfl, by decide⟩, _, rfl, by decide⟩

theorem witness_RxdataChangesOnlyByItsCommands :
    (∃ t, step (given .getRomidCrcSupport) = .next t ∧ t.rxdata ≠ (given .getRomidCrcSupport).rxdata) ∧
    ∃ t, step (facing .blockReset { bare with rxdata := 7#8 }) = .next t ∧ t.rxdata ≠ 7#8 :=
  ⟨⟨_, rfl, by decide⟩, _, rfl, by decide⟩

theorem witness_CrcChangesOnlyByItsCommands :
    (∃ t, step (asked (.crcUpdate 1#8) bare) = .next t ∧ t.crcAcc ≠ bare.crcAcc) ∧
    (∃ t, step (asked .crcClear { bare with crcCount := 3#16 }) = .next t ∧ t.crcCount ≠ 3#16) ∧
    (∃ t, step (facing .blockReset { bare with crcAcc := 7#8 }) = .next t ∧ t.crcAcc ≠ 7#8) ∧
    bare.crcAcc = State.reset.crcAcc ∧ bare.crcCount = State.reset.crcCount :=
  ⟨⟨_, rfl, by decide⟩, ⟨_, rfl, by decide⟩, ⟨_, rfl, by decide⟩, rfl, rfl⟩

theorem witness_GpioAccessNeedsAContext :
    Inv (asked (.setLevel .low) (ready Line.reset)) ∧
      ∃ t, step (asked (.setLevel .low) (ready Line.reset)) = .next t ∧
        t.port ≠ (asked (.setLevel .low) (ready Line.reset)).port :=
  ⟨inv_ready _ rfl rfl, _, rfl, List.cons_ne_nil _ _⟩

theorem witness_HistoryGrowsAndTimeIsMonotone :
    (∃ t, step (asked .crcClear bare) = .next t) ∧
      ∀ s', takeAction (asked .crcClear bare) ≠ some (.blockReset, s') := ⟨⟨_, rfl⟩, fun s' => by
    rw [takeAction_empty rfl]
    exact Option.some_ne_none _ |>.symm⟩

theorem witness_HostAccessDoesNotDisturbARunningCommand : (given .readByte).seq.busy = true ∧
    (given .readByte).inbox = [] ∧ isStagingReg .CFG_T_WRI = true := ⟨rfl, rfl, rfl⟩

/-- A stop after one primitive and after the last; a stop of a command already begun. -/
theorem witness_AStoppedCommandGoesOnWhereItStopped :
    (∀ k, 1 ≤ k → k ≤ 56 →
      stopAt { given .readByte with inbox := [⟨some k, .blockReset⟩] } = some k ∧
        (given .readByte).seq.step < k ∧ k ≤ primCount .readByte ∧
        Passes .readByte (given .readByte)) ∧
    (stopAt { given .readByte with
        inbox := [⟨some 9, .blockReset⟩], seq := { (given .readByte).seq with step := 8 } } = some 9 ∧
      8 < 9 ∧ 9 ≤ primCount .readByte ∧ (8 : Nat) ≠ 0) :=
  ⟨fun _ h1 h2 => ⟨rfl, h1, h2, rfl⟩, rfl, by decide, by decide, by decide⟩

/-- A word that finds the command before its first primitive, and one after its last. -/
theorem witness_ADroppedWordLeavesTheCommandRunning : (given .reset).seq.busy = true ∧
    (given .reset).inbox = [] ∧ decode (given .reset).seq.word = .ok .reset ∧
    0 ≤ (given .reset).seq.step ∧ 7 ≤ primCount .reset ∧ Passes .reset (given .reset) :=
  ⟨rfl, rfl, rfl, Nat.le_refl _, by decide, rfl⟩

theorem witness_InvariantKeptByEveryStep :
    Inv (asked .crcClear State.reset) ∧ ∃ t, step (asked .crcClear State.reset) = .next t :=
  ⟨inv_asked_reset _ rfl rfl, _, rfl⟩

end Sys2Proof.Tests
end

section
/-! SUPPORT. What a step can do, said once more finely: the effects of a host action, the effects of a
running command, and which fields a command's own updates can touch. -/

namespace Sys2Proof.Machine

/-! ### Host actions -/

/-- A host action that takes effect is the first of the inbox, and leaves it (R80). -/
theorem takeAction_some {s s' : State} {a : HostAction} (h : takeAction s = some (a, s')) :
    ∃ e rest, s.inbox = e :: rest ∧ a = e.act ∧ s' = { s with inbox := rest } ∧
      (s.seq.busy = false ∨ actionDue s = true) := by
  unfold takeAction at h
  split at h
  · exact absurd h.symm (Option.some_ne_none _)
  next e rest hi =>
    split at h
    next hl => exact ⟨e, rest, hi, by simp_all⟩
    next => exact absurd h.symm (Option.some_ne_none _)

/-- A due action takes effect inside a running command too (R80). -/
theorem takeAction_due {s : State} {e : HostEntry} {rest : List HostEntry}
    (hi : s.inbox = e :: rest) (hd : actionDue s = true) :
    takeAction s = some (e.act, { s with inbox := rest }) := by
  simp [takeAction, hi, hd]

/-- No action takes effect inside a running command before it is due. -/
theorem takeAction_not_due {s : State} (hb : s.seq.busy = true) (hd : actionDue s = false) :
    takeAction s = none := by
  unfold takeAction
  split <;> simp [hb, hd]

theorem actionDue_of_stopAt_none {s : State} (h : stopAt s = none) : actionDue s = false := by
  simp [actionDue, h]

theorem actionDue_of_lt {s : State} {k : Nat} (hk : stopAt s = some k) (h : s.seq.step < k) :
    actionDue s = false := by
  simp [actionDue, hk, h]

theorem actionDue_of_le {s : State} {k : Nat} (hk : stopAt s = some k) (h : k ≤ s.seq.step) :
    actionDue s = true := by
  simp [actionDue, hk, h]

/-- What an admitted host action can do to the state (R44, R65, R80, R106, R108, R312). -/
inductive HostEffect (s : State) : HostAction → State → Prop
  | keeps (a : HostAction) : HostEffect s a s
  | loads (a : HostAction) (v : Word) : HostEffect s a { s with got := s.got ++ [v] }
  | accepts (a : HostAction) (w : Word) (idle : s.seq.busy = false) : HostEffect s a (accept w s)
  | drops (a : HostAction) (w : Word) (busy : s.seq.busy = true) : HostEffect s a (drop w s)
  | clearsOvr (a : HostAction) : HostEffect s a { s with ovr := false }
  | stages (a : HostAction) (g : Staging) : HostEffect s a { s with staging := g }
  | idles (d : Nat) : HostEffect s (.idle d) (idleGap d s)
  | resets : HostEffect s .blockReset (blockReset s)

/-- A store to any offset has one of the effects of a host action (R64, R65). -/
theorem writeAt_effect (a : HostAction) (off : Nat) (w : Word) (s : State) :
    HostEffect s a (writeAt off w s) := by
  unfold writeAt
  split
  next r _ =>
    unfold writeReg
    split
    case h_1 =>
      cases hb : s.seq.busy
      · simpa [writeCmd, hb] using HostEffect.accepts a w hb
      · simpa [writeCmd, hb] using HostEffect.drops a w hb
    case h_2 =>
      unfold writeStatus
      split
      · exact .clearsOvr a
      · exact .keeps a
    case h_3 => exact .keeps a
    case h_4 => exact .keeps a
    case h_5 => exact .stages a _
  next => exact .keeps a

theorem hostAct_effect {p : Platform} {a : HostAction} {s t : State}
    (h : hostAct p a s = .next t) : HostEffect s a t := by
  cases a with
  | load addr size =>
    simp only [hostAct] at h
    split at h
    · cases h; exact .loads _ _
    · cases h
  | store addr size data =>
    simp only [hostAct] at h
    split at h
    · cases h; exact writeAt_effect _ _ _ _
    · cases h
  | wait => cases h; exact .keeps _
  | idle d => cases h; exact .idles d
  | blockReset => cases h; exact .resets

/-! ### Running commands -/

theorem step_at_rest {s : State} (ht : takeAction s = none) (hb : s.seq.busy = false) :
    step s = .next s := by
  simp [step, ht, hb]

theorem step_illegal {s : State} {e : DecodeError} (ht : takeAction s = none)
    (hb : s.seq.busy = true) (hd : decode s.seq.word = .error e) :
    step s = .next (finish .illegal s) := by
  simp [step, ht, hb, hd, execIllegal]

theorem step_running {s : State} {i : Instr} (ht : takeAction s = none) (hb : s.seq.busy = true)
    (hd : decode s.seq.word = .ok i) : step s = exec i s := by
  simp [step, ht, hb, hd]

/-- `u` is the state from which the sequencer runs the primitives of `i`: the one its register updates
make once its check has passed, or, when it has begun, the state it stands in (R40, R111). -/
def RunsFrom (p : Platform) (i : Instr) (s u : State) : Prop :=
  (s.seq.step = 0 ∧ (commandOf p i).check s = .none ∧ u = (commandOf p i).load s) ∨
    (s.seq.step ≠ 0 ∧ u = s)

/-- What the running command `i` can do at a step (R42, R80, R109, R110). -/
inductive RunEffect (p : Platform) (i : Instr) (s : State) : State → Prop
  | waits : RunEffect p i s s
  | fails (start : s.seq.step = 0) (failed : (commandOf p i).check s ≠ .none) :
    RunEffect p i s (finish ((commandOf p i).check s) ((commandOf p i).zero s))
  | stops {u : State} (ms : List Micro) (runs : RunsFrom p i s u)
    (sub : ms.Sublist ((commandOf p i).micros u)) : RunEffect p i s (runMicros p ms u)
  | completes {u : State} (ms : List Micro) (runs : RunsFrom p i s u)
    (sub : ms.Sublist ((commandOf p i).micros u)) :
    RunEffect p i s (finish .none ((commandOf p i).result (runMicros p ms u)))

theorem advance_effect {p : Platform} {i : Instr} {s u : State} (h : RunsFrom p i s u) :
    RunEffect p i s ((commandOf p i).advance p u) := by
  rcases (commandOf p i).advance_cases p u with ⟨k, j, e⟩ | ⟨j, e⟩ <;> rw [e]
  · exact .stops _ h ((List.drop_sublist _ _).trans (List.take_sublist _ _))
  · exact .completes _ h (List.drop_sublist _ _)

theorem exec_effect {i : Instr} {s t : State} (h : exec i s = .next t) :
    RunEffect Config.platform i s t := by
  rw [exec_eq] at h
  rcases Command.run_cases _ _ h with rfl | ⟨h0, hc, rfl⟩ | ⟨h0, hc, rfl⟩ | ⟨h0, rfl⟩
  · exact .waits
  · exact .fails h0 hc
  · exact advance_effect (.inl ⟨h0, hc, rfl⟩)
  · exact advance_effect (.inr ⟨h0, rfl⟩)

end Sys2Proof.Machine
end

section
/-! SUPPORT. What a step adds to the history, and what of the invariant follows from that alone
(10_state.md R27, R42, R44, R45). -/

namespace Sys2Proof.Machine

/-! ### What a command's register updates touch -/

/-- The updates before the first primitive: INIT adopts the snapshot, every other command can at most
load `seq.shift` (R200, R201, R250). -/
theorem load_cases (p : Platform) (i : Instr) (s : State) :
    (i = .init ∧ (commandOf p i).load s = adoptSnapshot s) ∨
      ∃ v, (commandOf p i).load s = loadShift v s := by
  cases i
  case init => exact .inl ⟨rfl, rfl⟩
  case writeByte v => exact .inr ⟨v, rfl⟩
  case readByte => exact .inr ⟨0#8, rfl⟩
  all_goals exact .inr ⟨s.seq.shift, rfl⟩

/-- Primitives run from the running state itself, at most with another `seq.shift`, or, for an INIT that
passes its checks, with the snapshot adopted (R111, R250). -/
theorem RunsFrom.cases {p : Platform} {i : Instr} {s u : State} (h : RunsFrom p i s u) :
    (∃ v, u = loadShift v s) ∨
      (i = .init ∧ s.ctxValid = false ∧ valid s.seq.snapshot = true ∧ u = adoptSnapshot s) := by
  rcases h with ⟨_, hc, rfl⟩ | ⟨_, rfl⟩
  · rcases load_cases p i s with ⟨rfl, e⟩ | h
    · replace hc : initCheck s = .none := hc
      unfold initCheck at hc
      split at hc
      · cases hc
      · split at hc
        · exact .inr ⟨rfl, by simpa using ‹¬s.ctxValid = true›, ‹_›, e⟩
        · cases hc
    · exact .inl h
  · exact .inl ⟨u.seq.shift, rfl⟩

theorem RunsFrom.busy {p : Platform} {i : Instr} {s u : State} (h : RunsFrom p i s u) :
    u.seq.busy = s.seq.busy := by
  rcases h.cases with ⟨_, rfl⟩ | ⟨_, _, _, rfl⟩ <;> rfl

/-- `f` writes result fields, and of the session nothing but that it may end it (R109, R254). -/
def WritesResults (f : State → State) : Prop :=
  ∀ s, ∃ pres rx acc count valid, f s = { s with
    presence := pres, rxdata := rx, crcAcc := acc, crcCount := count, ctxValid := s.ctxValid && valid }

theorem writesResults_zero (p : Platform) (i : Instr) : WritesResults (commandOf p i).zero := by
  intro s
  refine ⟨((commandOf p i).zero s).presence, ((commandOf p i).zero s).rxdata, s.crcAcc, s.crcCount,
    true, ?_⟩
  rw [Bool.and_true]
  cases i <;> rfl

theorem writesResults_result (p : Platform) (i : Instr) : WritesResults (commandOf p i).result := by
  intro s
  refine ⟨((commandOf p i).result s).presence, ((commandOf p i).result s).rxdata,
    ((commandOf p i).result s).crcAcc, ((commandOf p i).result s).crcCount,
    decide (i ≠ .teardown), ?_⟩
  cases i
  case teardown => exact congrArg (fun v => { s with ctxValid := v }) (Bool.and_false _).symm
  all_goals
    rw [decide_eq_true (by simp), Bool.and_true]
    rfl

/-! ### What a step records -/

/-- From `s` to `t` the events `es` are recorded: appended, stamped in order between the two times, at
least one if time passes (R44, R45); the line record follows them (R27), each GPIO access is among them
(R75, R76), and the acceptances and completions among them account for BUSY (R42). -/
structure Records (s : State) (es : List Event) (t : State) : Prop where
  hist : t.hist = s.hist ++ es
  time : s.now ≤ t.now
  stamps : ∀ e ∈ es, s.now ≤ eventTime e ∧ eventTime e ≤ t.now
  ordered : es.Pairwise fun a b => eventTime a ≤ eventTime b
  still : es = [] → t.now = s.now
  line : t.line = es.foldl trackLine s.line
  accesses : t.port.length = s.port.length + es.countP isAccess
  completions : es.countP isStart + s.seq.busy.toNat = es.countP isEnd + t.seq.busy.toNat

/-- A change of fields that the history does not speak of records nothing. -/
theorem Records.nothing {s t : State} (hist : t.hist = s.hist) (now : t.now = s.now)
    (line : t.line = s.line) (port : t.port = s.port) (busy : t.seq.busy = s.seq.busy) :
    Records s [] t where
  hist := by simp [hist]
  time := now.ge
  stamps := by simp
  ordered := .nil
  still _ := now
  line := line
  accesses := by simp [port]
  completions := by simp [busy]

theorem Records.refl (s : State) : Records s [] s := .nothing rfl rfl rfl rfl rfl

/-- One event, stamped with the new time. -/
theorem Records.one {s t : State} {e : Event} (hist : t.hist = s.hist ++ [e])
    (time : s.now ≤ t.now) (stamp : eventTime e = t.now) (line : t.line = trackLine s.line e)
    (accesses : t.port.length = s.port.length + (isAccess e).toNat)
    (completions : (isStart e).toNat + s.seq.busy.toNat = (isEnd e).toNat + t.seq.busy.toNat) :
    Records s [e] t where
  hist := hist
  time := time
  stamps := by simp [stamp, time]
  ordered := List.pairwise_singleton _ _
  still := by simp
  line := line
  accesses := by cases ha : isAccess e <;> simp [accesses, ha]
  completions := by
    cases hs : isStart e <;> cases he : isEnd e <;> simpa [List.countP_cons, hs, he] using completions

theorem Records.trans {s t u : State} {es fs : List Event} (h : Records s es t)
    (g : Records t fs u) : Records s (es ++ fs) u where
  hist := by rw [g.hist, h.hist, List.append_assoc]
  time := h.time.trans g.time
  stamps e he := by
    rcases List.mem_append.1 he with he | he
    · exact ⟨(h.stamps e he).1, (h.stamps e he).2.trans g.time⟩
    · exact ⟨h.time.trans (g.stamps e he).1, (g.stamps e he).2⟩
  ordered := List.pairwise_append.2 ⟨h.ordered, g.ordered,
    fun a ha b hb => (h.stamps a ha).2.trans (g.stamps b hb).1⟩
  still hn := by
    obtain ⟨he, hf⟩ := List.append_eq_nil_iff.1 hn
    rw [g.still hf, h.still he]
  line := by rw [g.line, h.line, List.foldl_append]
  accesses := by rw [g.accesses, h.accesses, List.countP_append, Nat.add_assoc]
  completions := by
    have := h.completions
    have := g.completions
    simp only [List.countP_append]
    omega

/-- Each primitive records its event (R45). -/
theorem runPrim_records (p : Platform) (q : Prim) (s : State) :
    ∃ e, Records s [e] (runPrim p q s) := by
  cases q with
  | gw k => exact ⟨_, .one (gw_hist p k s) (Nat.le_add_right _ _) rfl rfl
      (by simp [runPrim, isAccess]) (by simp [runPrim, isStart, isEnd])⟩
  | gr => exact ⟨_, .one (gr_hist p s) (Nat.le_add_right _ _) rfl rfl
      (by simp [runPrim, isAccess]) (by simp [runPrim, isStart, isEnd])⟩
  | delay n => exact ⟨_, .one (delay_hist p n s) (Nat.le_add_right _ _) rfl rfl
      (by simp [runPrim, isAccess]) (by simp [runPrim, isStart, isEnd])⟩

theorem runMicro_records (p : Platform) (m : Micro) (s : State) :
    ∃ es, Records s es (runMicro p m s) := by
  obtain ⟨e, he⟩ := runPrim_records p m.prim (setIndex m.bit s)
  have before : Records s [] (setIndex m.bit s) := .nothing (by simp) (by simp) (by simp) (by simp)
    (by simp)
  exact ⟨_, (before.trans he).trans
    (.nothing (by simp [runMicro]) (by simp [runMicro]) (by simp [runMicro]) (by simp [runMicro])
      (by simp [runMicro]))⟩

theorem runMicros_records (p : Platform) (ms : List Micro) (s : State) :
    ∃ es, Records s es (runMicros p ms s) :=
  runMicros_related (fun s t => ∃ es, Records s es t) p (fun s => ⟨_, .refl s⟩)
    (fun _ _ _ ⟨_, h⟩ ⟨_, g⟩ => ⟨_, h.trans g⟩) (runMicro_records p) ms s

/-- A completion of a running command, its results written with it, records its event (R109, R110). -/
theorem finish_records {f : State → State} (hf : WritesResults f) (e : ErrCode) {s : State}
    (hb : s.seq.busy = true) : Records s [.cmdEnd s.seq.op e s.now] (finish e (f s)) := by
  obtain ⟨_, _, _, _, _, h⟩ := hf s
  exact .one (by simp [h]) (by simp [h]) (by simp [h, eventTime]) (by simp [h, trackLine])
    (by simp [h, isAccess]) (by simp [hb, isStart, isEnd])

theorem RunsFrom.records {p : Platform} {i : Instr} {s u : State} (h : RunsFrom p i s u) :
    Records s [] u := by
  rcases h.cases with ⟨_, rfl⟩ | ⟨_, _, _, rfl⟩ <;> exact .nothing rfl rfl rfl rfl rfl

/-- A step of the running command. -/
theorem RunEffect.records {p : Platform} {i : Instr} {s t : State} (h : RunEffect p i s t)
    (hb : s.seq.busy = true) : ∃ es, Records s es t := by
  cases h with
  | waits => exact ⟨_, .refl s⟩
  | fails _ _ => exact ⟨_, finish_records (writesResults_zero p i) _ hb⟩
  | @stops u ms runs _ =>
    obtain ⟨es, hr⟩ := runMicros_records p ms u
    exact ⟨_, runs.records.trans hr⟩
  | @completes u ms runs _ =>
    obtain ⟨es, hr⟩ := runMicros_records p ms u
    have hu := runs.records.trans hr
    exact ⟨_, hu.trans (finish_records (writesResults_result p i) _ (by
      rw [runMicros_busy, runs.busy, hb]))⟩

/-- A host action but a block reset. -/
theorem HostEffect.records {s t : State} {a : HostAction} (h : HostEffect s a t)
    (ha : a ≠ .blockReset) : ∃ es, Records s es t := by
  cases h with
  | keeps => exact ⟨_, .refl s⟩
  | loads | clearsOvr | stages => exact ⟨_, .nothing rfl rfl rfl rfl rfl⟩
  | accepts _ w idle =>
    exact ⟨_, .one (accept_hist w s) le_rfl rfl rfl rfl (by simp [idle, isStart, isEnd])⟩
  | drops _ w _ => exact ⟨_, .one (drop_hist w s) le_rfl rfl rfl rfl (by simp [isStart, isEnd])⟩
  | idles d =>
    exact ⟨_, .one (idleGap_hist d s) (Nat.le_add_right _ _) rfl rfl rfl (by simp [isStart, isEnd])⟩
  | resets => exact absurd rfl ha

/-- Every step but a block reset. -/
theorem step_records {s t : State} (h : step s = .next t)
    (hr : ∀ s', takeAction s ≠ some (.blockReset, s')) : ∃ es, Records s es t := by
  rcases step_cases h with ⟨a, s', ha, he⟩ | ⟨_, _, rfl⟩ | ⟨_, hb, _, rfl⟩ | ⟨_, hb, i, _, he⟩
  · obtain ⟨e, rest, _, _, rfl, _⟩ := takeAction_some ha
    obtain ⟨es, hes⟩ := (hostAct_effect he).records fun h => hr _ (h ▸ ha)
    have taken : Records s [] { s with inbox := rest } := .nothing rfl rfl rfl rfl rfl
    exact ⟨_, taken.trans hes⟩
  · exact ⟨_, .refl _⟩
  · exact ⟨_, .one (finish_hist _ _) le_rfl rfl rfl rfl (by simp [hb, isStart, isEnd])⟩
  · exact (exec_effect he).records hb

/-- Settles O53: the events a step records are the growth of the history. -/
theorem historyGrowsAndTimeIsMonotone : Obligations.HistoryGrowsAndTimeIsMonotone := by
  intro s t h hr
  obtain ⟨es, hes⟩ := step_records h hr
  refine ⟨hes.time, es, hes.hist, ?_, hes.stamps⟩
  cases es with
  | nil => exact .inr (hes.still rfl)
  | cons e es => exact .inl (by simp [hes.hist])

end Sys2Proof.Machine
end

section
/-! SUPPORT. The invariant of every step (10_state.md R27, R42, R45, R77, R108, R252): the history's part
follows from what a step records, the registers' part is kept effect by effect. -/

namespace Sys2Proof.Machine

theorem lifecycleOk_iff (s : State) : lifecycleOk s = true ↔
    (s.seq.busy = true → s.seq.op = opField s.seq.word ∧ s.err = .none ∧ s.done = false) := by
  cases hb : s.seq.busy <;> simp [lifecycleOk, hb, and_assoc]

/-- What lets a command run primitives: a valid context, or its word is a delay's (R77, R111). -/
def MayRun (s : State) : Prop :=
  s.ctxValid = true ∨ ∃ i, decode s.seq.word = .ok i ∧ isDelay i = true

theorem runningOk_iff (s : State) : runningOk s = true ↔
    (s.seq.busy = true → s.seq.step ≠ 0 → MayRun s) := by
  cases hd : decode s.seq.word with
  | error _ => simp [runningOk, MayRun, hd, or_iff_not_imp_left]
  | ok i => simp [runningOk, MayRun, hd, or_iff_not_imp_left]

/-- The part of the invariant that speaks of the registers alone. -/
structure RegistersOk (s : State) : Prop where
  ctx_valid : s.ctxValid = true → valid s.ctx = true
  lifecycle : s.seq.busy = true → s.seq.op = opField s.seq.word ∧ s.err = .none ∧ s.done = false
  running : s.seq.busy = true → s.seq.step ≠ 0 → MayRun s

theorem Inv.registers {s : State} (h : Inv s) : RegistersOk s :=
  ⟨h.ctx_valid, (lifecycleOk_iff s).1 h.lifecycle, (runningOk_iff s).1 h.running⟩

/-- The rest of the invariant follows from what the step records. -/
theorem Inv.of_records {s t : State} {es : List Event} (h : Inv s) (hes : Records s es t)
    (hr : RegistersOk t) : Inv t where
  ctx_valid := hr.ctx_valid
  lifecycle := (lifecycleOk_iff t).2 hr.lifecycle
  running := (runningOk_iff t).2 hr.running
  ordered := by
    rw [hes.hist]
    exact List.pairwise_append.2 ⟨h.ordered, hes.ordered,
      fun a ha b hb => (h.past a ha).trans (hes.stamps b hb).1⟩
  past e he := by
    rw [hes.hist] at he
    rcases List.mem_append.1 he with he | he
    · exact (h.past e he).trans hes.time
    · exact (hes.stamps e he).2
  line_tracked := by rw [hes.line, hes.hist, List.foldl_append, h.line_tracked]
  accesses := by rw [hes.accesses, hes.hist, List.countP_append, h.accesses]
  completions := by
    have := h.completions
    have := hes.completions
    rw [hes.hist, List.countP_append, List.countP_append]
    omega

theorem blockReset_inv (s : State) : Inv (blockReset s) where
  ctx_valid h := by cases h
  lifecycle := rfl
  running := rfl
  ordered := .nil
  past e he := by cases he
  line_tracked := rfl
  accesses := rfl
  completions := rfl

/-- No host action but a block reset touches the session, and an accepted word starts its lifecycle. -/
theorem HostEffect.registersOk {s t : State} {a : HostAction} (h : HostEffect s a t)
    (hs : RegistersOk s) : RegistersOk t := by
  cases h with
  | keeps | loads | clearsOvr | stages | drops | idles => exact ⟨hs.1, hs.2, hs.3⟩
  | accepts _ w _ => exact ⟨hs.ctx_valid, fun _ => ⟨rfl, rfl, rfl⟩, fun _ h => absurd rfl h⟩
  | resets => exact (blockReset_inv s).registers

/-- A completion ends the lifecycle. -/
theorem RegistersOk.finish {f : State → State} (hf : WritesResults f) (e : ErrCode) {s : State}
    (hv : s.ctxValid = true → valid s.ctx = true) : RegistersOk (finish e (f s)) := by
  obtain ⟨_, _, _, _, _, h⟩ := hf s
  refine ⟨fun ht => ?_, fun hb => ?_, fun hb => ?_⟩
  · simp only [h, finish_ctxValid, Bool.and_eq_true] at ht
    simpa [h] using hv ht.1
  · simp at hb
  · simp at hb

/-- The context that primitives run under passed INIT's validation (R252). -/
theorem RunsFrom.ctx_valid {p : Platform} {i : Instr} {s u : State} (h : RunsFrom p i s u)
    (hs : RegistersOk s) : u.ctxValid = true → valid u.ctx = true := by
  rcases h.cases with ⟨_, rfl⟩ | ⟨_, _, hv, rfl⟩
  · exact hs.ctx_valid
  · exact fun _ => hv

theorem needCtx_eq_none {s : State} : needCtx s = .none ↔ s.ctxValid = true := by
  simp [needCtx]

/-- A command from its start has passed its check: it has a context, or is a delay, or has no
primitives; one that has begun was let to (R77, R111). -/
theorem RunsFrom.mayRun {p : Platform} {i : Instr} {s u : State} (h : RunsFrom p i s u)
    (hs : RegistersOk s) (hb : s.seq.busy = true) (hd : decode s.seq.word = .ok i) :
    MayRun u ∨ (u.seq.step = 0 ∧ (commandOf p i).micros u = []) := by
  rcases h with ⟨h0, hc, rfl⟩ | ⟨h0, rfl⟩
  · cases i
    case init => exact .inl (.inl rfl)
    case delayUs | delayMs => exact .inl (.inr ⟨_, hd, rfl⟩)
    case crcClear | crcUpdate => exact .inr ⟨h0, rfl⟩
    all_goals exact .inl (.inl (needCtx_eq_none.1 hc))
  · exact .inl (hs.running hb h0)

theorem RunEffect.registersOk {p : Platform} {i : Instr} {s t : State} (h : RunEffect p i s t)
    (hs : RegistersOk s) (hb : s.seq.busy = true) (hd : decode s.seq.word = .ok i) :
    RegistersOk t := by
  cases h with
  | waits => exact hs
  | fails _ _ => exact .finish (writesResults_zero p i) _ hs.ctx_valid
  | @stops u ms runs sub =>
    refine ⟨by simpa using runs.ctx_valid hs, fun _ => ?_, fun _ h0 => ?_⟩
    · have := hs.lifecycle hb
      rcases runs.cases with ⟨_, rfl⟩ | ⟨_, _, _, rfl⟩ <;> simpa [loadShift, adoptSnapshot]
    · rcases runs.mayRun hs hb hd with hm | ⟨hz, hn⟩
      · simpa [MayRun] using hm
      · rw [hn] at sub
        simp [List.sublist_nil.1 sub, hz] at h0
  | @completes u ms runs _ =>
    exact .finish (writesResults_result p i) _ (by simpa using runs.ctx_valid hs)

theorem step_registersOk {s t : State} (h : step s = .next t) (hs : RegistersOk s) :
    RegistersOk t := by
  rcases step_cases h with ⟨a, s', ha, he⟩ | ⟨_, _, rfl⟩ | ⟨_, _, _, rfl⟩ | ⟨_, hb, i, hd, he⟩
  · obtain ⟨e, rest, _, _, rfl, _⟩ := takeAction_some ha
    exact (hostAct_effect he).registersOk ⟨hs.1, hs.2, hs.3⟩
  · exact hs
  · exact ⟨hs.ctx_valid, fun hb => (by cases hb), fun hb => (by cases hb)⟩
  · exact (exec_effect he).registersOk hs hb hd

/-- Settles O56: a block reset starts the invariant anew; every other step records its events and keeps
the registers' part. -/
theorem invariantKeptByEveryStep : Obligations.InvariantKeptByEveryStep := by
  intro s t hs h
  by_cases hr : ∃ s', takeAction s = some (.blockReset, s')
  · obtain ⟨s', hr⟩ := hr
    rw [step_of_takeAction hr] at h
    cases h
    exact blockReset_inv s'
  · obtain ⟨es, hes⟩ := step_records h (not_exists.1 hr)
    exact hs.of_records hes (step_registersOk h hs.registers)

end Sys2Proof.Machine
end

section
/-! SUPPORT. What the sequencer does not read: the staging registers, OVR, what the host has read and has
yet to do, and, with no valid context and no primitive but delays, the context (R21, R41, R65, R80). -/

namespace Sys2Proof.Machine

/-! ### Updates that a command's run commutes with -/

theorem runMicros_commutes {p : Platform} {f : State → State} {ms : List Micro}
    (h : ∀ m ∈ ms, ∀ u, runMicro p m (f u) = f (runMicro p m u)) (s : State) :
    runMicros p ms (f s) = f (runMicros p ms s) := by
  induction ms generalizing s with
  | nil => rfl
  | cons m ms ih =>
    rw [runMicros_cons, h m List.mem_cons_self, ih fun m hm => h m (List.mem_cons_of_mem _ hm),
      runMicros_cons]

/-- An update that no part of a command reads or overwrites can be made before the command's run as well
as after it. -/
theorem Command.advance_commutes {c : Command} {p : Platform} {f : State → State} {s : State}
    (stop : stopAt (f s) = stopAt s) (step : (f s).seq.step = s.seq.step)
    (micros : c.micros (f s) = c.micros s)
    (run : ∀ m ∈ c.micros s, ∀ u, runMicro p m (f u) = f (runMicro p m u))
    (result : ∀ u, c.result (f u) = f (c.result u))
    (complete : ∀ u, finish .none (f u) = f (finish .none u)) :
    c.advance p (f s) = f (c.advance p s) := by
  have hd : ∀ j, runMicros p ((c.micros s).drop j) (f s) = f (runMicros p ((c.micros s).drop j) s) :=
    fun j => runMicros_commutes (fun m hm => run m (List.mem_of_mem_drop hm)) s
  have ht : ∀ k j, runMicros p (((c.micros s).take k).drop j) (f s) =
      f (runMicros p (((c.micros s).take k).drop j) s) := fun k j =>
    runMicros_commutes (fun m hm => run m (List.mem_of_mem_take (List.mem_of_mem_drop hm))) s
  unfold Command.advance
  rw [stop, step, micros, hd]
  cases stopAt s with
  | none => simp only [result, complete]
  | some k =>
    dsimp only
    split
    · exact ht k _
    · rw [result, complete]

/-! ### What the host does to a running command -/

/-- The state with the staging registers, OVR, the values read and the coming actions replaced. -/
def outside (g : Staging) (o : Bool) (v : List Word) (b : List HostEntry) (s : State) : State :=
  { s with staging := g, ovr := o, got := v, inbox := b }

section Outside

variable (p : Platform) (i : Instr) (g : Staging) (o : Bool) (v : List Word) (b : List HostEntry)
  (s : State)

theorem runMicro_outside (m : Micro) :
    runMicro p m (outside g o v b s) = outside g o v b (runMicro p m s) := by
  rcases m with ⟨_ | _ | _, _ | _, _ | _⟩ <;> rfl

theorem check_outside : (commandOf p i).check (outside g o v b s) = (commandOf p i).check s := by
  cases i <;> rfl

theorem zero_outside :
    (commandOf p i).zero (outside g o v b s) = outside g o v b ((commandOf p i).zero s) := by
  cases i <;> rfl

theorem load_outside :
    (commandOf p i).load (outside g o v b s) = outside g o v b ((commandOf p i).load s) := by
  cases i <;> rfl

theorem micros_outside : (commandOf p i).micros (outside g o v b s) = (commandOf p i).micros s := by
  cases i <;> rfl

theorem result_outside :
    (commandOf p i).result (outside g o v b s) = outside g o v b ((commandOf p i).result s) := by
  cases i <;> rfl

end Outside

theorem RunsFrom.step_eq {p : Platform} {i : Instr} {s u : State} (h : RunsFrom p i s u) :
    u.seq.step = s.seq.step := by
  rcases h.cases with ⟨_, rfl⟩ | ⟨_, _, _, rfl⟩ <;> rfl

theorem RunsFrom.inbox_eq {p : Platform} {i : Instr} {s u : State} (h : RunsFrom p i s u) :
    u.inbox = s.inbox := by
  rcases h.cases with ⟨_, rfl⟩ | ⟨_, _, _, rfl⟩ <;> rfl

theorem RunsFrom.draws_eq {p : Platform} {i : Instr} {s u : State} (h : RunsFrom p i s u) :
    u.draws = s.draws := by
  rcases h.cases with ⟨_, rfl⟩ | ⟨_, _, _, rfl⟩ <;> rfl

theorem RunsFrom.word_eq {p : Platform} {i : Instr} {s u : State} (h : RunsFrom p i s u) :
    u.seq.word = s.seq.word := by
  rcases h.cases with ⟨_, rfl⟩ | ⟨_, _, _, rfl⟩ <;> rfl

theorem RunsFrom.with_outside {p : Platform} {i : Instr} {s u : State} (h : RunsFrom p i s u)
    (g : Staging) (o : Bool) (v : List Word) (b : List HostEntry) :
    RunsFrom p i (outside g o v b s) (outside g o v b u) := by
  rcases h with ⟨h0, hc, rfl⟩ | ⟨h0, rfl⟩
  · exact .inl ⟨h0, (check_outside ..).trans hc, (load_outside ..).symm⟩
  · exact .inr ⟨h0, rfl⟩

/-! ### Where a command starts, stops and goes on -/

theorem RunsFrom.runFrom {p : Platform} {i : Instr} {s u : State} (h : RunsFrom p i s u) :
    (commandOf p i).runFrom p s = (commandOf p i).advance p u := by
  rcases h with ⟨h0, hc, rfl⟩ | ⟨h0, rfl⟩
  · simp [Command.runFrom, h0, hc]
  · simp [Command.runFrom, h0]

theorem runFrom_fails {p : Platform} {i : Instr} {s : State} (h0 : s.seq.step = 0)
    (hc : (commandOf p i).check s ≠ .none) : (commandOf p i).runFrom p s =
      finish ((commandOf p i).check s) ((commandOf p i).zero s) := by
  unfold Command.runFrom
  rw [if_pos h0]
  split
  · exact absurd ‹_› hc
  · rfl

theorem runsFrom_or_fails (p : Platform) (i : Instr) (s : State) :
    (∃ u, RunsFrom p i s u) ∨ (s.seq.step = 0 ∧ (commandOf p i).check s ≠ .none) := by
  by_cases h0 : s.seq.step = 0
  · by_cases hc : (commandOf p i).check s = .none
    · exact .inl ⟨_, .inl ⟨h0, hc, rfl⟩⟩
    · exact .inr ⟨h0, hc⟩
  · exact .inl ⟨s, .inr ⟨h0, rfl⟩⟩

theorem exec_not_due {i : Instr} {s : State} (h : actionDue s = false) :
    exec i s = .next ((commandOf Config.platform i).runFrom Config.platform s) := by
  simp [exec_eq, execOn, Command.run, h]

theorem runMicros_shift (p : Platform) {ms : List Micro} (h : ∀ m ∈ ms, m.latch = false) (s : State) :
    (runMicros p ms s).seq.shift = s.seq.shift := by
  induction ms generalizing s with
  | nil => rfl
  | cons m ms ih =>
    rw [runMicros_cons, ih fun m hm => h m (List.mem_cons_of_mem _ hm)]
    have hm := h m List.mem_cons_self
    rcases m with ⟨_ | _ | _, b, _⟩ <;> cases hm <;> simp [runMicro, runPrim]

/-- The slots WRITE_BYTE sends are those of the bits in `seq.shift`, which sending leaves alone; the
primitives of every other command depend on the context at most. So those still to come stay the same. -/
theorem micros_runMicros (p : Platform) (i : Instr) {ms : List Micro} {s : State}
    (h : ms.Sublist ((commandOf p i).micros s)) :
    (commandOf p i).micros (runMicros p ms s) = (commandOf p i).micros s := by
  cases i
  case writeByte v =>
    have keeps : ∀ m ∈ writeSlots p s, m.latch = false := by
      simp only [writeSlots, under, List.mem_flatMap, List.mem_map]
      rintro m ⟨_, _, _, _, rfl⟩
      rfl
    have shift := runMicros_shift p (fun m hm => keeps m (h.subset hm)) s
    show writeSlots p (runMicros p ms s) = writeSlots p s
    rw [writeSlots, writeSlots, shift, runMicros_ctx]
  case writeBit bit => exact congrArg (fun c => plain (wslot p c bit)) (runMicros_ctx p ms s)
  case readBit =>
    exact congrArg (fun c => plain (rslotHead p c ++ [rslotTail p])) (runMicros_ctx p ms s)
  case readByte => exact congrArg (readSlotsAt p · bitOrder) (runMicros_ctx p ms s)
  all_goals rfl

/-- The running command stopped after `k` of its primitives. -/
def stoppedAt (p : Platform) (i : Instr) (k : Nat) (u : State) : State :=
  runMicros p ((((commandOf p i).micros u).take k).drop u.seq.step) u

/-- The running command completed from where it stands. -/
def completed (p : Platform) (i : Instr) (u : State) : State :=
  finish .none ((commandOf p i).result (runMicros p (((commandOf p i).micros u).drop u.seq.step) u))

theorem advance_undisturbed {p : Platform} {i : Instr} {u : State} (h : stopAt u = none) :
    (commandOf p i).advance p u = completed p i u := by
  simp [Command.advance, h, completed]

theorem advance_past {p : Platform} {i : Instr} {u : State} {k : Nat} (h : stopAt u = some k)
    (hk : primCount i < k) : (commandOf p i).advance p u = completed p i u := by
  simp [Command.advance, h, completed, commandOf_micros_length, hk.not_ge]

theorem advance_stops {p : Platform} {i : Instr} {u : State} {k : Nat} (h : stopAt u = some k)
    (hk : k ≤ primCount i) : (commandOf p i).advance p u = stoppedAt p i k u := by
  simp [Command.advance, h, stoppedAt, commandOf_micros_length, hk]

theorem stoppedAt_step {p : Platform} {i : Instr} {u : State} {k : Nat} (hj : u.seq.step ≤ k)
    (hk : k ≤ primCount i) : (stoppedAt p i k u).seq.step = k := by
  simp [stoppedAt, commandOf_micros_length]
  omega

/-- A stopped command has the same completion before it. -/
theorem completed_stoppedAt {p : Platform} {i : Instr} {u : State} {k : Nat} (hj : u.seq.step ≤ k)
    (hk : k ≤ primCount i) : completed p i (stoppedAt p i k u) = completed p i u := by
  have sub : ((((commandOf p i).micros u).take k).drop u.seq.step).Sublist
      ((commandOf p i).micros u) := (List.drop_sublist _ _).trans (List.take_sublist _ _)
  rw [completed, stoppedAt_step hj hk, stoppedAt, micros_runMicros p i sub,
    runMicros_resume p _ hj, completed]

theorem stoppedAt_outside (p : Platform) (i : Instr) (k : Nat) (g : Staging) (o : Bool)
    (v : List Word) (b : List HostEntry) (u : State) :
    stoppedAt p i k (outside g o v b u) = outside g o v b (stoppedAt p i k u) := by
  rw [stoppedAt, micros_outside]
  exact runMicros_commutes (fun _ _ _ => runMicro_outside ..) u

theorem completed_outside (p : Platform) (i : Instr) (g : Staging) (o : Bool) (v : List Word)
    (b : List HostEntry) (u : State) :
    completed p i (outside g o v b u) = outside g o v b (completed p i u) := by
  have run := runMicros_commutes (p := p) (f := outside g o v b)
    (ms := ((commandOf p i).micros u).drop u.seq.step) (fun _ _ _ => runMicro_outside ..) u
  rw [completed, micros_outside]
  exact (congrArg _ ((congrArg _ run).trans (result_outside ..)))

/-- What a command has recorded and sent is kept up to its completion. -/
theorem completed_prefix (p : Platform) (i : Instr) (u : State) :
    u.hist <+: (completed p i u).hist ∧ u.port <+: (completed p i u).port := by
  have run := runMicros_related (fun s t => s.hist <+: t.hist ∧ s.port <+: t.port) p
    (fun s => ⟨List.prefix_rfl, List.prefix_rfl⟩)
    (fun _ _ _ h g => ⟨h.1.trans g.1, h.2.trans g.2⟩)
    (fun m s => by rcases m with ⟨_ | _ | _, b, _⟩ <;> simp [runMicro, runPrim])
    (((commandOf p i).micros u).drop u.seq.step) u
  obtain ⟨_, _, _, _, _, h⟩ := writesResults_result p i
    (runMicros p (((commandOf p i).micros u).drop u.seq.step) u)
  rw [completed, h]
  exact ⟨run.1.trans (List.prefix_append _ _), run.2⟩

theorem runMicros_draws (p : Platform) (ms : List Micro) (s : State) :
    (runMicros p ms s).draws = s.draws + ms.length := by
  induction ms generalizing s with
  | nil => rfl
  | cons m ms ih =>
    rw [runMicros_cons, ih, List.length_cons]
    rcases m with ⟨_ | _ | _, b, _⟩ <;> simp [runMicro, runPrim] <;> omega

/-- `Passes` is that the command's check passes (R111, R284). -/
theorem check_eq_expectedErr (p : Platform) (i : Instr) (s : State) :
    (commandOf p i).check s = expectedErr s s.seq.snapshot i := by
  have need : needCtx s = if true && !s.ctxValid then .cfgUninit else .none := by
    cases h : s.ctxValid <;> simp [needCtx, h]
  cases i
  case init | delayUs | delayMs | crcClear | crcUpdate => rfl
  all_goals exact need

theorem runsFrom_of_passes (p : Platform) {i : Instr} {s : State}
    (h : s.seq.step ≠ 0 ∨ Passes i s) : ∃ u, RunsFrom p i s u := by
  by_cases h0 : s.seq.step = 0
  · exact ⟨_, .inl ⟨h0, (check_eq_expectedErr p i s).trans (h.resolve_left (not_not_intro h0)), rfl⟩⟩
  · exact ⟨s, .inr ⟨h0, rfl⟩⟩

/-- With no action that interrupts it the command completes. -/
theorem exec_undisturbed {i : Instr} {s u : State} (h : RunsFrom Config.platform i s u)
    (hn : stopAt s = none) : exec i s = .next (completed Config.platform i u) := by
  rw [exec_not_due (actionDue_of_stopAt_none hn), h.runFrom,
    advance_undisturbed ((stopAt_congr h.inbox_eq).trans hn)]

/-- The same command without its host's coming actions. -/
theorem exec_alone {i : Instr} {s u : State} (h : RunsFrom Config.platform i s u) :
    exec i { s with inbox := [] } = .next { completed Config.platform i u with inbox := [] } := by
  have alone := exec_undisturbed (h.with_outside s.staging s.ovr s.got []) rfl
  have kept := completed_outside Config.platform i u.staging u.ovr u.got u.inbox u
  have same : outside s.staging s.ovr s.got [] u = outside u.staging u.ovr u.got [] u := by
    rcases h.cases with ⟨_, rfl⟩ | ⟨_, _, _, rfl⟩ <;> rfl
  rw [same, completed_outside] at alone
  exact alone.trans (congrArg (fun t => Host.Outcome.next { t with inbox := [] }) kept.symm)

/-- Settles O57: the stopped command and the whole one have the same completion before them. -/
theorem aStoppedCommandGoesOnWhereItStopped : Obligations.AStoppedCommandGoesOnWhereItStopped := by
  intro i s k hk hj hl hp
  obtain ⟨u, hu⟩ := runsFrom_of_passes Config.platform hp
  have hju : u.seq.step ≤ k := hu.step_eq ▸ hj.le
  have due := actionDue_of_lt hk hj
  have stops : exec i s = .next (stoppedAt Config.platform i k u) := by
    rw [exec_not_due due, hu.runFrom, advance_stops ((stopAt_congr hu.inbox_eq).trans hk) hl]
  have at_k := stoppedAt_step (p := Config.platform) (i := i) hju hl
  have resumed : RunsFrom Config.platform i (stoppedAt Config.platform i k u)
      (stoppedAt Config.platform i k u) := .inr ⟨by omega, rfl⟩
  have inbox : (stoppedAt Config.platform i k u).inbox = s.inbox :=
    (runMicros_inbox ..).trans hu.inbox_eq
  have before := completed_prefix Config.platform i (stoppedAt Config.platform i k u)
  rw [completed_stoppedAt hju hl] at before
  refine ⟨_, { completed Config.platform i u with inbox := [] }, stops,
    (runMicros_busy ..).trans hu.busy, at_k, inbox, ?_, ?_, before.1, before.2,
    exec_alone hu, rfl, rfl, ?_⟩
  · rw [stoppedAt, runMicros_draws, hu.draws_eq, List.length_drop, List.length_take,
      commandOf_micros_length, hu.step_eq, Nat.min_eq_left hl]
  · exact actionDue_of_le ((stopAt_congr inbox).trans hk) at_k.ge
  · rw [exec_alone resumed, completed_stoppedAt hju hl]

end Sys2Proof.Machine
end

section
/-! SUPPORT. Which steps change the session and the result registers (10_state.md R23, R31, R33, R34),
and what STATUS reads (R30). -/

namespace Sys2Proof.Machine

/-! ### The session -/

theorem zero_session (p : Platform) (i : Instr) (s : State) :
    ((commandOf p i).zero s).ctx = s.ctx ∧ ((commandOf p i).zero s).ctxValid = s.ctxValid := by
  cases i <;> exact ⟨rfl, rfl⟩

theorem result_session (p : Platform) {i : Instr} (hi : i ≠ .teardown) (s : State) :
    ((commandOf p i).result s).ctx = s.ctx ∧
      ((commandOf p i).result s).ctxValid = s.ctxValid := by
  cases i with
  | teardown => exact absurd rfl hi
  | _ => exact ⟨rfl, rfl⟩

theorem HostEffect.session {s t : State} {a : HostAction} (h : HostEffect s a t)
    (ha : a ≠ .blockReset) : t.ctx = s.ctx ∧ t.ctxValid = s.ctxValid := by
  cases h with
  | resets => exact absurd rfl ha
  | _ => exact ⟨rfl, rfl⟩

/-- A running command leaves the session alone, or it is an INIT that adopts its snapshot, or a TEARDOWN
that completes (R23, R250, R254). -/
theorem RunEffect.session {p : Platform} {i : Instr} {s t : State} (h : RunEffect p i s t) :
    (t.ctx = s.ctx ∧ t.ctxValid = s.ctxValid) ∨
    (i = .init ∧ s.ctxValid = false ∧ valid s.seq.snapshot = true ∧
      t.ctx = s.seq.snapshot ∧ t.ctxValid = true) ∨
    (i = .teardown ∧ t.ctx = s.ctx ∧ t.ctxValid = false ∧ t.seq.busy = false) := by
  cases h with
  | waits => exact .inl ⟨rfl, rfl⟩
  | fails _ _ => exact .inl (zero_session p i s)
  | stops ms runs _ =>
    rcases runs.cases with ⟨_, rfl⟩ | ⟨hi, hv, hs, rfl⟩
    · exact .inl ⟨runMicros_ctx .., runMicros_ctxValid ..⟩
    · exact .inr (.inl ⟨hi, hv, hs, runMicros_ctx .., runMicros_ctxValid ..⟩)
  | completes ms runs _ =>
    rcases runs.cases with ⟨_, rfl⟩ | ⟨rfl, hv, hs, rfl⟩
    · by_cases hi : i = .teardown
      · subst hi
        exact .inr (.inr ⟨rfl, runMicros_ctx .., rfl, rfl⟩)
      · obtain ⟨hc, hv⟩ := result_session p hi (runMicros p ms (loadShift _ s))
        exact .inl ⟨hc.trans (runMicros_ctx ..), hv.trans (runMicros_ctxValid ..)⟩
    · exact .inr (.inl ⟨rfl, hv, hs, runMicros_ctx .., runMicros_ctxValid ..⟩)

/-- Settles O47, by what a host action and a running command do to the session. -/
theorem contextChangesOnlyByInitAndTeardown : Obligations.ContextChangesOnlyByInitAndTeardown := by
  intro s t h hne
  have changed : ¬ (t.ctx = s.ctx ∧ t.ctxValid = s.ctxValid) := not_and_or.2 hne
  rcases step_cases h with ⟨a, s', ha, he⟩ | ⟨_, _, rfl⟩ | ⟨_, _, _, rfl⟩ | ⟨hn, hb, i, hd, he⟩
  · by_cases hr : a = .blockReset
    · exact .inr ⟨s', hr ▸ ha⟩
    · obtain ⟨_, _, _, _, rfl, _⟩ := takeAction_some ha
      exact absurd ((hostAct_effect he).session hr) changed
  · exact absurd ⟨rfl, rfl⟩ changed
  · exact absurd ⟨rfl, rfl⟩ changed
  · refine .inl ⟨hn, hb, ?_⟩
    rcases (exec_effect he).session with hk | ⟨rfl, hi⟩ | ⟨rfl, ht⟩
    · exact absurd hk changed
    · exact .inl ⟨hd, hi⟩
    · exact .inr ⟨hd, ht⟩

/-! ### The result registers -/

/-- PRESENCE, RXDATA, CRC.ACC and CRC.COUNT: what commands write at their completion (R109). -/
def results (s : State) : Bool × Byte × Byte × BitVec 16 :=
  (s.presence, s.rxdata, s.crcAcc, s.crcCount)

theorem HostEffect.results_eq {s t : State} {a : HostAction} (h : HostEffect s a t)
    (ha : a ≠ .blockReset) : results t = results s := by
  cases h with
  | resets => exact absurd rfl ha
  | _ => rfl

theorem RunsFrom.results_eq {p : Platform} {i : Instr} {s u : State} (h : RunsFrom p i s u)
    (ms : List Micro) : results (runMicros p ms u) = results s := by
  rcases h.cases with ⟨_, rfl⟩ | ⟨_, _, _, rfl⟩ <;>
    simp [results, loadShift, adoptSnapshot]

/-- Only a completing command whose rule writes the result, or a block reset, changes a result. -/
theorem step_changes_result {α : Type} (f : Bool × Byte × Byte × BitVec 16 → α) {s t : State}
    (h : step s = .next t) (hne : f (results t) ≠ f (results s)) :
    (s.seq.busy = true ∧ t.seq.busy = false ∧ ∃ i, decode s.seq.word = .ok i ∧
      ∃ u, f (results ((commandOf Config.platform i).zero u)) ≠ f (results u) ∨
        f (results ((commandOf Config.platform i).result u)) ≠ f (results u)) ∨
    ∃ s', takeAction s = some (.blockReset, s') := by
  rcases step_cases h with ⟨a, s', ha, he⟩ | ⟨_, _, rfl⟩ | ⟨_, _, _, rfl⟩ | ⟨_, hb, i, hd, he⟩
  · by_cases hr : a = .blockReset
    · exact .inr ⟨s', hr ▸ ha⟩
    · obtain ⟨_, _, _, _, rfl, _⟩ := takeAction_some ha
      exact absurd (congrArg f ((hostAct_effect he).results_eq hr)) hne
  · exact absurd rfl hne
  · exact absurd rfl hne
  · cases exec_effect he with
    | waits => exact absurd rfl hne
    | fails _ _ => exact .inl ⟨hb, rfl, i, hd, s, .inl hne⟩
    | stops ms runs _ => exact absurd (congrArg f (runs.results_eq ms)) hne
    | completes ms runs _ => exact .inl ⟨hb, rfl, i, hd, _, .inr (runs.results_eq ms ▸ hne)⟩

/-- Settles O49: of all commands RESET alone writes PRESENCE. -/
theorem presenceChangesOnlyByReset : Obligations.PresenceChangesOnlyByReset := by
  intro s t h hne
  refine (step_changes_result (·.1) h hne).imp_left fun ⟨hb, ht, i, hd, u, hu⟩ => ⟨hb, ht, ?_⟩
  cases i with
  | reset => exact hd
  | _ => exact absurd rfl (or_self_iff.1 hu)

/-- Settles O50: the commands that write RXDATA. -/
theorem rxdataChangesOnlyByItsCommands : Obligations.RxdataChangesOnlyByItsCommands := by
  intro s t h hne
  refine (step_changes_result (·.2.1) h hne).imp_left fun ⟨hb, ht, i, hd, u, hu⟩ =>
    ⟨hb, ht, i, hd, ?_⟩
  cases i with
  | readBit | readByte | readLevel | getRomidCrcSupport => simp
  | _ => exact absurd rfl (or_self_iff.1 hu)

/-! ### What STATUS reads -/

/-- STATUS at its width written as the sum of its fields' widths. -/
theorem statusWord_getLsbD (s : State) (k : Nat) : (statusWord s).getLsbD k =
    (0#20 ++ BitVec.ofBool s.ovr ++ errBits s.err ++ BitVec.ofBool (lineLvlBit s)
      ++ BitVec.ofBool (lineDirBit s) ++ 0#1 ++ BitVec.ofBool (crcOk s) ++ BitVec.ofBool s.presence
      ++ BitVec.ofBool s.ctxValid ++ BitVec.ofBool s.done ++ BitVec.ofBool s.seq.busy).getLsbD k :=
  rfl

theorem statusWord_flags (s : State) :
    (statusWord s).getLsbD 0 = s.seq.busy ∧ (statusWord s).getLsbD 1 = s.done ∧
    (statusWord s).getLsbD 2 = s.ctxValid ∧ (statusWord s).getLsbD 3 = s.presence ∧
    (statusWord s).getLsbD 4 = crcOk s ∧ (statusWord s).getLsbD 5 = false ∧
    (statusWord s).getLsbD 6 = lineDirBit s ∧ (statusWord s).getLsbD 7 = lineLvlBit s ∧
    (statusWord s).getLsbD 11 = s.ovr := by
  simp only [statusWord_getLsbD, BitVec.getLsbD_append]
  simp

theorem statusWord_err (s : State) : (statusWord s).extractLsb' 8 3 = errBits s.err := by
  ext i hi
  simp only [BitVec.getElem_extractLsb', statusWord_getLsbD, BitVec.getLsbD_append]
  simp [hi]

theorem statusWord_reserved (s : State) : (statusWord s).extractLsb' 12 20 = 0#20 := by
  ext i hi
  simp only [BitVec.getElem_extractLsb', statusWord_getLsbD, BitVec.getLsbD_append]
  simp only [BitVec.getElem_zero, BitVec.getLsbD_zero]
  have : ¬ 4 + i < 3 := by omega
  simp [this]
  omega

theorem crcOk_iff (s : State) : crcOk s = true ↔ s.crcCount ≠ 0#16 ∧ s.crcAcc = 0#8 := by
  have : 1 ≤ s.crcCount.toNat ↔ s.crcCount ≠ 0#16 := by
    rw [Nat.one_le_iff_ne_zero, ne_eq, ne_eq, BitVec.toNat_eq, BitVec.toNat_zero]
  simp [crcOk, this]

/-- Settles O51: the commands that write CRC; CRC_OK is recomputed from ACC and COUNT at each read. -/
theorem crcChangesOnlyByItsCommands : Obligations.CrcChangesOnlyByItsCommands := by
  refine ⟨fun s t h hne => ?_, fun s t ha hc => ?_⟩
  · have changed : (t.crcAcc, t.crcCount) ≠ (s.crcAcc, s.crcCount) :=
      fun e => not_and_or.2 hne (Prod.mk.inj e)
    refine (step_changes_result (·.2.2) h changed).imp_left fun ⟨hb, ht, i, hd, u, hu⟩ =>
      ⟨hb, ht, ?_⟩
    cases i with
    | crcClear => exact .inl hd
    | crcUpdate v => exact .inr ⟨v, hd⟩
    | _ => exact absurd rfl (or_self_iff.1 hu)
  · obtain ⟨_, _, _, _, read_t, _⟩ := statusWord_flags t
    obtain ⟨_, _, _, _, read_s, _⟩ := statusWord_flags s
    rw [read_t, read_s, crcOk, crcOk, ha, hc]

end Sys2Proof.Machine
end

section
/-! SUPPORT. What a host's load or store of a register does (20_memory.md R61, R65), and the idle gap
(10_state.md R44). -/

namespace Sys2Proof.Machine

/-- A store to a register's offset writes that register (R61, R65). -/
theorem step_store_reg {s s' : State} {r : HostReg} {w : Word}
    (h : takeAction s = some (.store (Config.P_BASE + regOffset r) 4 w, s')) :
    step s = .next (writeReg r w s') := by
  rw [step_of_takeAction h]
  simp [hostAct, writeAt]

theorem writeStatus_eq (w : Word) (s : State) :
    writeStatus w s = { s with ovr := s.ovr && !w.getLsbD 11 } := by
  unfold writeStatus
  cases w.getLsbD 11 <;> simp

theorem writeReg_staging {r : HostReg} (h : isStagingReg r = true) (w : Word) (s : State) :
    writeReg r w s = { s with staging := writeStaging s.staging w r } := by
  cases r with
  | CMD | STATUS | RXDATA | CRC => cases h
  | _ => rfl

/-- A stored staging register reads the word, and CFG_FLAGS bit 0 of it (R24). -/
theorem readReg_writeStaging_same {r : HostReg} (h : isStagingReg r = true) (w : Word) (s : State) :
    readReg { s with staging := writeStaging s.staging w r } r =
      if r = .CFG_FLAGS then w &&& 1#32 else w := by
  cases r with
  | CMD | STATUS | RXDATA | CRC => cases h
  | CFG_FLAGS =>
    show (BitVec.ofBool (w.getLsbD 0)).setWidth 32 = w &&& 1#32
    ext i hi
    cases i <;> simp
  | _ => rfl

/-- Two staging registers share no storage. -/
theorem readReg_writeStaging_other {r r' : HostReg} (h : r' ≠ r) (w : Word) (s : State) :
    readReg { s with staging := writeStaging s.staging w r } r' = readReg s r' := by
  cases r <;> cases r' <;> simp at h <;> rfl

/-- Settles O10: the second clause's list is the staging registers, each at its offset. -/
theorem stagingStoreChangesOneRegister : Obligations.StagingStoreChangesOneRegister := by
  refine ⟨fun s s' r w hr h => ?_, fun s s' off w g h hm => ?_⟩
  · exact ⟨writeStaging s'.staging w r, (step_store_reg h).trans (by rw [writeReg_staging hr]),
      readReg_writeStaging_same hr w s', fun r' hne => readReg_writeStaging_other hne w s'⟩
  · change (off, g) ∈ (allRegs.filter isStagingReg).map
      fun r => (regOffset r, writeStaging s'.staging w r) at hm
    obtain ⟨r, hr, e⟩ := List.mem_map.1 hm
    cases e
    rw [step_store_reg h, writeReg_staging (List.mem_filter.1 hr).2]

/-- Settles O12, bit by bit. -/
theorem statusFieldsAndClear : Obligations.StatusFieldsAndClear := by
  refine ⟨fun s => ?_, fun s s' w h => ?_, by decide⟩
  · obtain ⟨busy, done, ctx, presence, crc, zero, dir, lvl, ovr⟩ := statusWord_flags s
    refine ⟨busy, done, ctx, presence, ?_, zero, ?_, ?_, statusWord_err s, ovr, statusWord_reserved s⟩
    · rw [crc, crcOk_iff]
    · rw [dir, lineDirBit, decide_eq_true_iff]
    · rw [lvl, lineLvlBit, decide_eq_true_iff]
  · rw [step_store_reg (r := .STATUS) h, writeReg, writeStatus_eq]

theorem rxdataWord_fields (s : State) : (rxdataWord s).extractLsb' 0 8 = s.rxdata ∧
    (rxdataWord s).extractLsb' 8 24 = 0#24 := by
  constructor <;> ext i hi
  · simp [rxdataWord, hi]
    omega
  · simp [rxdataWord]

/-- CRC at its width written as the sum of its fields' widths. -/
theorem crcWord_getLsbD (s : State) (k : Nat) :
    (crcWord s).getLsbD k = (s.crcCount ++ 0#8 ++ s.crcAcc).getLsbD k := rfl

theorem crcWord_fields (s : State) : (crcWord s).extractLsb' 0 8 = s.crcAcc ∧
    (crcWord s).extractLsb' 8 8 = 0#8 ∧ (crcWord s).extractLsb' 16 16 = s.crcCount := by
  refine ⟨?_, ?_, ?_⟩ <;> ext i hi <;>
    simp only [BitVec.getElem_extractLsb', crcWord_getLsbD, BitVec.getLsbD_append]
  · simp [hi]
  · simp [hi]
  · have : ¬ 16 + i < 8 := by omega
    have : ¬ 16 + i - 8 < 8 := by omega
    have : 16 + i - 8 - 8 = i := by omega
    simp [*]

/-- Settles O13: the fields of RXDATA and CRC, and the two stores that are ignored. -/
theorem dataRegistersReadAndIgnoreStores : Obligations.DataRegistersReadAndIgnoreStores := by
  refine ⟨fun s => ?_, fun s s' w off ho h => ?_⟩
  · exact ⟨rfl, (rxdataWord_fields s).1, (rxdataWord_fields s).2, crcWord_fields s⟩
  · rcases ho with rfl | rfl
    · exact step_store_reg (r := .RXDATA) h
    · exact step_store_reg (r := .CRC) h

/-- An idle gap takes effect between commands only (R44). -/
theorem takeAction_idleGap {s s' : State} {d : Nat} (h : takeAction s = some (.idle d, s')) :
    s.seq.busy = false := by
  obtain ⟨e, rest, hi, ha, _, hb | hd⟩ := takeAction_some h
  · exact hb
  · simp [actionDue, stopAt, hi, HostEntry.stop, ← ha] at hd

/-- Settles O17. -/
theorem idleGapAdvancesTime : Obligations.IdleGapAdvancesTime := fun _ _ _ h =>
  ⟨takeAction_idleGap h, step_of_takeAction h⟩

end Sys2Proof.Machine
end

section
/-! SUPPORT. While CTX_VALID = 0 no step reads a field of `ctx` (10_state.md R21, R23): host actions
never do, a command that checks CTX_VALID fails first, an INIT that passes overwrites the context, and the
other commands make delays at most. -/

namespace Sys2Proof.Machine

/-- The state with its context replaced. -/
def withContext (c : Context) (s : State) : State := { s with ctx := c }

theorem hideContext_withContext (c : Context) {s : State} (h : s.ctxValid = false) :
    hideContext (withContext c s) = hideContext s := by
  simp [hideContext, withContext, h]

/-! ### Host actions -/

theorem readAt_withContext (c : Context) (off : Nat) (s : State) :
    readAt off (withContext c s) = readAt off s := by
  unfold readAt
  cases regAt off with
  | none => rfl
  | some r => cases r <;> rfl

theorem writeReg_withContext (c : Context) (r : HostReg) (w : Word) (s : State) :
    writeReg r w (withContext c s) = withContext c (writeReg r w s) := by
  cases r with
  | CMD => exact (apply_ite (withContext c) (s.seq.busy = true) (drop w s) (accept w s)).symm
  | STATUS => exact (writeStatus_eq ..).trans (congrArg (withContext c) (writeStatus_eq ..).symm)
  | _ => rfl

theorem writeAt_withContext (c : Context) (off : Nat) (w : Word) (s : State) :
    writeAt off w (withContext c s) = withContext c (writeAt off w s) := by
  unfold writeAt
  cases regAt off with
  | none => rfl
  | some r => exact writeReg_withContext c r w s

/-- A host action has the same outcome whatever the hidden context is. -/
theorem hostAct_withContext (p : Platform) (a : HostAction) (c : Context) {s : State}
    (hv : s.ctxValid = false) :
    seen hideContext (hostAct p a (withContext c s)) = seen hideContext (hostAct p a s) := by
  cases a with
  | load addr size =>
    simp only [hostAct]
    cases windowOffset p addr size with
    | error r => rfl
    | ok off =>
      simp only [readAt_withContext]
      exact congrArg Host.Outcome.next (hideContext_withContext c (s := { s with got := _ }) hv)
  | store addr size w =>
    simp only [hostAct]
    cases windowOffset p addr size with
    | error r => rfl
    | ok off =>
      have kept := (writeAt_effect .wait off w s).session (by simp)
      simp only [writeAt_withContext]
      exact congrArg Host.Outcome.next (hideContext_withContext c (kept.2.trans hv))
  | wait => exact congrArg Host.Outcome.next (hideContext_withContext c hv)
  | idle d => exact congrArg Host.Outcome.next (hideContext_withContext c (s := idleGap d s) hv)
  | blockReset => rfl

/-! ### Running commands -/

theorem check_withContext (p : Platform) (i : Instr) (c : Context) (s : State) :
    (commandOf p i).check (withContext c s) = (commandOf p i).check s := by
  cases i <;> rfl

theorem zero_withContext (p : Platform) (i : Instr) (c : Context) (s : State) :
    (commandOf p i).zero (withContext c s) = withContext c ((commandOf p i).zero s) := by
  cases i <;> rfl

/-- A command that checks CTX_VALID does not pass without a context (R111). -/
theorem needsCtx_of_passes {i : Instr} {s : State} (h : Passes i s) (hv : s.ctxValid = false) :
    needsCtx i = false := by
  unfold Passes expectedErr at h
  split at h
  · rfl
  · cases hn : needsCtx i with
    | false => rfl
    | true => simp [hn, hv] at h

/-- The commands that neither check for a context nor make one: their primitives are delays, and their
results do not come from the context. -/
theorem commandOf_noContext (p : Platform) {i : Instr} (hn : needsCtx i = false) (hi : i ≠ .init) :
    (commandOf p i).check = noCheck ∧ (commandOf p i).load = id ∧
      (∃ ms, (commandOf p i).micros = (fun _ => ms) ∧ ∀ m ∈ ms, ∃ n, m = ⟨.delay n, none, false⟩) ∧
      ∀ c s, (commandOf p i).result (withContext c s) = withContext c ((commandOf p i).result s) := by
  cases i with
  | init => exact absurd rfl hi
  | delayUs n | delayMs n =>
    exact ⟨rfl, rfl, ⟨_, rfl, fun m hm => ⟨_, List.mem_singleton.1 hm⟩⟩, fun _ _ => rfl⟩
  | crcClear | crcUpdate v => exact ⟨rfl, rfl, ⟨[], rfl, by simp⟩, fun _ _ => rfl⟩
  | _ => cases hn

theorem runFrom_withContext (p : Platform) {i : Instr} (hn : needsCtx i = false) (hi : i ≠ .init)
    (c : Context) (s : State) :
    (commandOf p i).runFrom p (withContext c s) = withContext c ((commandOf p i).runFrom p s) := by
  obtain ⟨check, load, ⟨ms, micros, delays⟩, result⟩ := commandOf_noContext p hn hi
  have advance : (commandOf p i).advance p (withContext c s) =
      withContext c ((commandOf p i).advance p s) := by
    refine Command.advance_commutes rfl rfl (by rw [micros]) (fun m hm u => ?_) (result c) fun _ => rfl
    rw [micros] at hm
    obtain ⟨n, rfl⟩ := delays m hm
    rfl
  have runs : ∀ t, (commandOf p i).runFrom p t = (commandOf p i).advance p t := by
    simp [Command.runFrom, check, load, noCheck]
  rw [runs, runs, advance]

theorem RunEffect.stays_invalid {p : Platform} {i : Instr} {s t : State} (h : RunEffect p i s t)
    (hi : i ≠ .init) (hv : s.ctxValid = false) : t.ctxValid = false := by
  rcases h.session with ⟨_, hk⟩ | ⟨hinit, _⟩ | ⟨_, _, ht, _⟩
  · exact hk.trans hv
  · exact absurd hinit hi
  · exact ht

/-- A running command goes the same way whatever the hidden context is. -/
theorem runFrom_hides {p : Platform} {i : Instr} {s : State} (hs : RegistersOk s)
    (hb : s.seq.busy = true) (hd : decode s.seq.word = .ok i) (hv : s.ctxValid = false)
    (c : Context) : hideContext ((commandOf p i).runFrom p (withContext c s)) =
      hideContext ((commandOf p i).runFrom p s) := by
  have without : ∀ {u}, RunsFrom p i s u → needsCtx i = false → i ≠ .init →
      hideContext ((commandOf p i).runFrom p (withContext c s)) =
        hideContext ((commandOf p i).runFrom p s) := fun {u} hu hn hi => by
    rw [runFrom_withContext p hn hi, hideContext_withContext]
    exact hu.runFrom ▸ (advance_effect hu).stays_invalid hi hv
  rcases runsFrom_or_fails p i s with ⟨u, hu⟩ | ⟨h0, hc⟩
  · rcases id hu with ⟨h0, hc, rfl⟩ | ⟨h0, rfl⟩
    · by_cases hi : i = .init
      · subst hi
        have adopts : RunsFrom p .init (withContext c s) (adoptSnapshot s) := .inl ⟨h0, hc, rfl⟩
        rw [adopts.runFrom, hu.runFrom]
        rfl
      · exact without hu (needsCtx_of_passes ((check_eq_expectedErr p i s).symm.trans hc) hv) hi
    · rcases hs.running hb h0 with hm | ⟨j, hj, hdel⟩
      · simp [hm] at hv
      · rw [hd] at hj
        cases hj
        cases i with
        | delayUs | delayMs => exact without hu rfl (by simp)
        | _ => cases hdel
  · rw [runFrom_fails h0 hc, runFrom_fails (s := withContext c s) h0
      ((check_withContext p i c s).trans_ne hc), check_withContext, zero_withContext]
    exact hideContext_withContext c (s := finish _ ((commandOf p i).zero s))
      ((zero_session p i s).2.trans hv)

theorem exec_withContext {i : Instr} {s : State} (hs : RegistersOk s) (hb : s.seq.busy = true)
    (hd : decode s.seq.word = .ok i) (hv : s.ctxValid = false) (c : Context) :
    seen hideContext (exec i (withContext c s)) = seen hideContext (exec i s) := by
  have same : actionDue (withContext c s) = actionDue s := rfl
  rw [exec_eq, exec_eq, execOn, execOn, Command.run, Command.run, same]
  refine congrArg Host.Outcome.next ?_
  split
  · exact hideContext_withContext c hv
  · exact runFrom_hides hs hb hd hv c

/-! ### Steps -/

theorem takeAction_withContext (c : Context) (s : State) : takeAction (withContext c s) =
    (takeAction s).map fun x => (x.1, withContext c x.2) := by
  have same : actionDue (withContext c s) = actionDue s := rfl
  cases hi : s.inbox with
  | nil => simp [takeAction, withContext, hi]
  | cons e rest =>
    simp only [takeAction, same]
    simp [withContext, hi]

/-- Settles O48, by which of a host action, nothing, an illegal word and the running command it is. -/
theorem contextIsUnobservableWhileInvalid : Obligations.ContextIsUnobservableWhileInvalid := by
  intro s c hs hv
  show seen hideContext (step (withContext c s)) = seen hideContext (step s)
  have taken := takeAction_withContext c s
  cases ht : takeAction s with
  | some x =>
    obtain ⟨a, s'⟩ := x
    rw [ht] at taken
    obtain ⟨_, _, _, _, rfl, _⟩ := takeAction_some ht
    rw [step_of_takeAction ht, step_of_takeAction taken]
    exact hostAct_withContext _ a c hv
  | none =>
    rw [ht] at taken
    cases hb : s.seq.busy with
    | false =>
      rw [step_at_rest ht hb, step_at_rest taken hb]
      exact congrArg Host.Outcome.next (hideContext_withContext c hv)
    | true =>
      cases hd : decode s.seq.word with
      | error e =>
        rw [step_illegal ht hb hd, step_illegal taken hb hd]
        exact congrArg Host.Outcome.next (hideContext_withContext c (s := finish .illegal s) hv)
      | ok i =>
        rw [step_running ht hb hd, step_running taken hb hd]
        exact exec_withContext hs.registers hb hd hv c

end Sys2Proof.Machine
end

section
/-! SUPPORT. A host access that lands inside a running command and the same access made after it
(10_state.md R41, 20_memory.md R65, R80). -/

namespace Sys2Proof.Machine

/-- With no action that interrupts it, the command running in `s` completes in `d` at the next step,
whatever the host has changed outside the sequencer. -/
def CompletesAs (s d : State) : Prop :=
  ∀ g o v b, stopAt (outside g o v b s) = none →
    step (outside g o v b s) = .next (outside g o v b d)

theorem RunsFrom.completesAs {i : Instr} {s u : State} (h : RunsFrom Config.platform i s u)
    (hb : s.seq.busy = true) (hd : decode s.seq.word = .ok i) :
    CompletesAs s (completed Config.platform i u) := by
  intro g o v b hn
  have due := actionDue_of_stopAt_none hn
  rw [step_running (takeAction_not_due (s := outside g o v b s) hb due) hb hd,
    exec_undisturbed (h.with_outside g o v b) hn, completed_outside]

/-- The running command is stopped in `m`, with an action due, on its way to the completion `d`. -/
structure StoppedOnTheWay (m d : State) : Prop where
  busy : m.seq.busy = true
  due : actionDue m = true
  goes_on : CompletesAs m d

/-- The command running in `s` completes in `d`, at once or after a stop. -/
structure Completes (s d : State) : Prop where
  idle : d.seq.busy = false
  done : d.done = true
  alone : CompletesAs s d
  stops : ∀ g o v b k, stopAt (outside g o v b s) = some k → s.seq.step < k →
    step (outside g o v b s) = .next (outside g o v b d) ∨
      ∃ m, step (outside g o v b s) = .next (outside g o v b m) ∧
        StoppedOnTheWay (outside g o v b m) d

/-- A command that completes at its next step unless an action is due. -/
theorem Completes.at_once {s d : State} (idle : d.seq.busy = false) (done : d.done = true)
    (h : ∀ g o v b, actionDue (outside g o v b s) = false →
      step (outside g o v b s) = .next (outside g o v b d)) : Completes s d where
  idle := idle
  done := done
  alone g o v b hn := h g o v b (actionDue_of_stopAt_none hn)
  stops g o v b _ hk hj := .inl (h g o v b (actionDue_of_lt hk hj))

theorem RunsFrom.completes {i : Instr} {s u : State} (h : RunsFrom Config.platform i s u)
    (hb : s.seq.busy = true) (hd : decode s.seq.word = .ok i) :
    Completes s (completed Config.platform i u) where
  idle := rfl
  done := rfl
  alone := h.completesAs hb hd
  stops g o v b k hk hj := by
    have hx := h.with_outside g o v b
    have hku := (stopAt_congr hx.inbox_eq).trans hk
    have due := actionDue_of_lt hk hj
    rw [step_running (takeAction_not_due (s := outside g o v b s) hb due) hb hd, exec_not_due due,
      hx.runFrom]
    rcases Nat.lt_or_ge (primCount i) k with hl | hl
    · rw [advance_past hku hl, completed_outside]
      exact .inl rfl
    · rw [advance_stops hku hl, stoppedAt_outside]
      have hju : u.seq.step ≤ k := (h.step_eq.trans_lt hj).le
      have at_k := stoppedAt_step (p := Config.platform) hju hl
      have busy : (stoppedAt Config.platform i k u).seq.busy = true :=
        (runMicros_busy ..).trans (h.busy.trans hb)
      have word : (stoppedAt Config.platform i k u).seq.word = s.seq.word :=
        (runMicros_word ..).trans h.word_eq
      refine .inr ⟨_, rfl, busy, ?_, fun g o v b hn => ?_⟩
      · have hm : stopAt (outside g o v b (stoppedAt Config.platform i k u)) = some k := hk
        exact actionDue_of_le hm at_k.ge
      · have goes_on := RunsFrom.completesAs (.inr ⟨by omega, rfl⟩) busy (word ▸ hd)
        rw [completed_stoppedAt hju hl] at goes_on
        exact goes_on g o v b hn

/-- Every running command completes: an illegal word and a failed check at once, any other in its
primitives' time. -/
theorem running_completes {s : State} (hb : s.seq.busy = true) : ∃ d, Completes s d := by
  cases hd : decode s.seq.word with
  | error e =>
    exact ⟨finish .illegal s, .at_once rfl rfl fun g o v b due =>
      step_illegal (takeAction_not_due (s := outside g o v b s) hb due) hb hd⟩
  | ok i =>
    rcases runsFrom_or_fails Config.platform i s with ⟨u, hu⟩ | ⟨h0, hc⟩
    · exact ⟨_, hu.completes hb hd⟩
    · refine ⟨_, .at_once (d := finish ((commandOf Config.platform i).check s)
        ((commandOf Config.platform i).zero s)) rfl rfl fun g o v b due => ?_⟩
      have same := check_outside Config.platform i g o v b s
      rw [step_running (takeAction_not_due (s := outside g o v b s) hb due) hb hd, exec_not_due due,
        runFrom_fails (s := outside g o v b s) h0 (same.trans_ne hc), same, zero_outside]
      rfl

/-! ### The access -/

/-- The action `a` lands where it is due and changes only what is outside the sequencer. -/
structure OutsideAccess (a : HostAction) (g : Staging → Staging) (o : Bool → Bool)
    (v : State → List Word) : Prop where
  stop : ∀ due, HostEntry.stop ⟨due, a⟩ = due
  act : ∀ x, hostAct Config.platform a x =
    .next (outside (g x.staging) (o x.ovr) (v x) x.inbox x)

theorem run_succ {s t : State} (h : step s = .next t) (n : Nat) :
    Host.Core.run core (n + 1) s = Host.Core.run core n t := by
  simp only [Host.Core.run]
  rw [show core.step s = .next t from h]

theorem run_three {s t u w : State} (h1 : step s = .next t) (h2 : step t = .next u)
    (h3 : step u = .next w) : Host.Core.run core 3 s = .next w :=
  (run_succ h1 2).trans ((run_succ h2 1).trans (run_succ h3 0))

section Lands

variable {a : HostAction} {g : Staging → Staging} {o : Bool → Bool} {v : State → List Word}
  (ha : OutsideAccess a g o v) {s d : State} (hd : Completes s d) (due : Option Nat)

include ha hd

/-- The access waits for the completion; `x` is the state in which it lands. -/
theorem OutsideAccess.run_late (first : step { s with inbox := [⟨due, a⟩] } =
      .next (outside s.staging s.ovr s.got [⟨due, a⟩] d)) :
    ∃ x, x.got = s.got ∧ Host.Core.run core 3 { s with inbox := [⟨due, a⟩] } =
      .next (outside (g s.staging) (o s.ovr) (v x) [] d) := by
  have lands := takeAction_idle (s := outside s.staging s.ovr s.got [⟨due, a⟩] d) rfl hd.idle
  exact ⟨outside s.staging s.ovr s.got [] d, rfl,
    run_three first ((step_of_takeAction lands).trans (ha.act _))
      (step_at_rest (takeAction_empty rfl) hd.idle)⟩

/-- Wherever the access lands, three steps make it and complete the command; `x` is the state in which it
lands. -/
theorem OutsideAccess.run : ∃ x, x.got = s.got ∧
    Host.Core.run core 3 { s with inbox := [⟨due, a⟩] } =
      .next (outside (g s.staging) (o s.ovr) (v x) [] d) := by
  have stop : stopAt { s with inbox := [⟨due, a⟩] } = due := ha.stop due
  cases due with
  | none => exact ha.run_late hd _ (hd.alone s.staging s.ovr s.got [⟨none, a⟩] stop)
  | some k =>
    rcases Nat.lt_or_ge s.seq.step k with hk | hk
    · rcases hd.stops s.staging s.ovr s.got [⟨some k, a⟩] k stop hk with first | ⟨m, first, hm⟩
      · exact ha.run_late hd _ first
      · exact ⟨outside s.staging s.ovr s.got [] m, rfl, run_three first
          ((step_of_takeAction (takeAction_due rfl hm.due)).trans (ha.act _))
          (hm.goes_on _ _ _ [] rfl)⟩
    · have now := actionDue_of_le stop hk
      exact ⟨{ s with inbox := [] }, rfl, run_three
        ((step_of_takeAction (takeAction_due rfl now)).trans (ha.act _))
        (hd.alone _ _ _ [] rfl) (step_at_rest (takeAction_empty rfl) hd.idle)⟩

end Lands

theorem outsideAccess_store_staging {r : HostReg} (hr : isStagingReg r = true) (w : Word) :
    OutsideAccess (.store (Config.P_BASE + regOffset r) 4 w) (writeStaging · w r) id (·.got) where
  stop _ := rfl
  act x := by
    simp only [hostAct, writeAt, windowOffset_regOffset, regAt_regOffset, writeReg_staging hr]
    rfl

theorem outsideAccess_store_status (w : Word) :
    OutsideAccess (.store (Config.P_BASE + regOffset .STATUS) 4 w) id (· && !w.getLsbD 11) (·.got) where
  stop _ := rfl
  act x := by
    simp only [hostAct, writeAt, windowOffset_regOffset, regAt_regOffset, writeReg, writeStatus_eq]
    rfl

theorem outsideAccess_load (r : HostReg) :
    OutsideAccess (.load (Config.P_BASE + regOffset r) 4) id id (fun x => x.got ++ [readReg x r]) where
  stop _ := rfl
  act x := by
    simp only [hostAct, readAt, windowOffset_regOffset, regAt_regOffset]
    rfl

/-- A store that lands at any time leaves the state of the same store at any other. -/
theorem OutsideAccess.run_same {a : HostAction} {g : Staging → Staging} {o : Bool → Bool}
    (ha : OutsideAccess a g o (·.got)) {s d : State} (hd : Completes s d) (due : Option Nat) :
    Host.Core.run core 3 { s with inbox := [⟨due, a⟩] } =
      .next (outside (g s.staging) (o s.ovr) s.got [] d) := by
  obtain ⟨x, hx, h⟩ := ha.run hd due
  exact hx ▸ h

/-- Settles O54: the access commutes with the completion of the running command. -/
theorem hostAccessDoesNotDisturbARunningCommand :
    Obligations.HostAccessDoesNotDisturbARunningCommand := by
  intro s k r hb hi
  obtain ⟨d, hd⟩ := running_completes hb
  refine ⟨fun w hr => ?_, ?_⟩
  · rcases hr with hr | rfl
    · have store := outsideAccess_store_staging hr w
      exact ⟨_, store.run_same hd (some k), store.run_same hd none, hd.idle, hd.done⟩
    · have store := outsideAccess_store_status w
      exact ⟨_, store.run_same hd (some k), store.run_same hd none, hd.idle, hd.done⟩
  · obtain ⟨x, _, inside⟩ := (outsideAccess_load r).run hd (some k)
    obtain ⟨y, _, late⟩ := (outsideAccess_load r).run hd none
    exact ⟨_, _, inside, late, rfl, hd.idle, hd.done⟩

end Sys2Proof.Machine
end

section
/-! SUPPORT. A bus held at one level (10_state.md R47): every sample is that level. -/

namespace Sys2Proof.Machine

theorem mem_of_mem_sampled {es : List Event} {l : Level} (h : l ∈ es.filterMap sampled) :
    ∃ u, .sample l u ∈ es := by
  obtain ⟨e, he, hl⟩ := List.mem_filterMap.1 h
  cases e with
  | sample x u => exact ⟨u, Option.some.inj hl ▸ he⟩
  | _ => cases hl

/-- Eight bits of one level put into an empty byte (R201). -/
theorem shift_of_level (l : Level) : (bitOrder.zip (List.replicate 8 l)).foldl
    (fun v il => withBit v il.1 (levelBit il.2)) 0#8 = if l = .high then 0xFF#8 else 0x00#8 := by
  cases l <;> decide

section Constant

variable {p : Platform} {l : Level} {s : State} (held : ∀ e h t, p.env e h t = l) (fresh : Fresh s)
  (context : s.ctxValid = true) (mask : s.ctx.mIn ≠ 0#32)

include held fresh context mask

/-- RESET on a held bus (R188). -/
theorem reset_of_held : ∃ t, execOn p .reset s = .next t ∧ t.presence = decide (l = .low) ∧
    t.err = .none := by
  obtain ⟨_, _, _, _, _, _, _, x, _, _, _, _, _, _, _, _, hx, _, run⟩ := rstseq_next p s mask
  refine ⟨_, (resetCommand p).run_passes p fresh (needCtx_eq_none.2 context) rfl rfl, ?_, rfl⟩
  show decide ((runMicros p (plain (rstseq p)) s).seq.sample = .low) = _
  rw [run]
  simp [hx, held]

/-- READ_BIT on a held bus (R192). -/
theorem readBit_of_held : ∃ t, execOn p .readBit s = .next t ∧
    t.rxdata = (if l = .high then 1#8 else 0#8) := by
  obtain ⟨_, _, _, _, _, _, _, x, _, _, _, _, _, _, _, _, hx, _, run⟩ :=
    rslot_next p none false s.ctx s mask
  have sample : (runMicros p (plain (rslotHead p s.ctx ++ [rslotTail p])) s).seq.sample = l := by
    rw [plain_eq_tagged, tagged_append]
    exact (congrArg (·.seq.sample) run).trans (hx.trans (held ..))
  refine ⟨_, (readBitCommand p).run_passes p fresh (needCtx_eq_none.2 context) rfl rfl,
    (congrArg (fun x => bitByte (levelBit x)) sample).trans ?_⟩
  cases l <;> rfl

/-- READ_BYTE on a held bus (R201). -/
theorem readByte_of_held : ∃ t, execOn p .readByte s = .next t ∧
    t.rxdata = (if l = .high then 0xFF#8 else 0x00#8) := by
  obtain ⟨t, es, _, run, _, _, _, _, samples, count, shift, _⟩ :=
    readSlots_next p s.ctx bitOrder (loadShift 0#8 s) (by decide) mask
  have all : es.filterMap sampled = List.replicate 8 l :=
    List.eq_replicate_iff.2 ⟨count, fun x hx => by
      obtain ⟨u, hu⟩ := mem_of_mem_sampled hx
      obtain ⟨before, after, he⟩ := List.append_of_mem hu
      exact (samples before x u after he).trans (held ..)⟩
  have byte : (runMicros p (readSlots p (loadShift 0#8 s)) (loadShift 0#8 s)).seq.shift =
      if l = .high then 0xFF#8 else 0x00#8 := by
    refine (congrArg (·.seq.shift) run).trans (shift.trans ?_)
    rw [all]
    exact shift_of_level l
  exact ⟨_, (readByteCommand p).run_passes p fresh (needCtx_eq_none.2 context) rfl rfl, byte⟩

end Constant

/-- Settles O37, command by command. -/
theorem constantBusIsReadAsIs : Obligations.ConstantBusIsReadAsIs := by
  intro p l s held fresh context mask
  obtain ⟨t, ht, presence, err⟩ := reset_of_held held fresh context mask
  obtain ⟨u, hu, bit⟩ := readBit_of_held held fresh context mask
  obtain ⟨v, hv, byte⟩ := readByte_of_held held fresh context mask
  exact ⟨t, u, v, ht, presence, err, hu, bit, hv, byte⟩

end Sys2Proof.Machine
end

section
/-! SUPPORT. When a host action lands or waits (20_memory.md R80, 30_encoding.md R112, R115), and the
register window: loads, unmapped offsets, refused accesses and the byte order (20_memory.md R61 to R65,
R90). -/

namespace Sys2Proof.Machine

/-! ### When an action lands -/

theorem stopAt_cons {s : State} {e : HostEntry} {rest : List HostEntry}
    (hi : s.inbox = e :: rest) : stopAt s = e.stop := by
  simp [stopAt, hi]

/-- Waits and idle gaps never land inside a command; every other action lands at its count (R44, R115). -/
theorem stop_cases (due : Option Nat) (a : HostAction) :
    (HostEntry.stop ⟨due, a⟩ = none ∧ (a = .wait ∨ ∃ d, a = .idle d)) ∨
      (HostEntry.stop ⟨due, a⟩ = due ∧ a ≠ .wait ∧ ∀ d, a ≠ .idle d) := by
  cases a with
  | wait => exact .inl ⟨rfl, .inl rfl⟩
  | idle d => exact .inl ⟨rfl, .inr ⟨d, rfl⟩⟩
  | load | store | blockReset => exact .inr ⟨rfl, nofun, nofun⟩

/-- What lands: the next action, with OWM idle or at its count inside the running command. -/
theorem takeAction_lands {s : State} {due : Option Nat} {a : HostAction} {rest : List HostEntry}
    (hi : s.inbox = ⟨due, a⟩ :: rest)
    (h : s.seq.busy = false ∨
      ∃ k, due = some k ∧ k ≤ s.seq.step ∧ a ≠ .wait ∧ ∀ d, a ≠ .idle d) :
    takeAction s = some (a, { s with inbox := rest }) := by
  rcases h with hb | ⟨k, rfl, hk, hw, hg⟩
  · exact takeAction_idle hi hb
  · rcases stop_cases (some k) a with ⟨_, rfl | ⟨d, rfl⟩⟩ | ⟨stop, _⟩
    · exact absurd rfl hw
    · exact absurd rfl (hg d)
    · exact takeAction_due hi (actionDue_of_le ((stopAt_cons hi).trans stop) hk)

/-- What waits: a wait, an idle gap, and an action without a count or with a later one. -/
theorem actionDue_waits {s : State} {due : Option Nat} {a : HostAction} {rest : List HostEntry}
    (hi : s.inbox = ⟨due, a⟩ :: rest)
    (h : a = .wait ∨ (∃ d, a = .idle d) ∨ due = none ∨ ∃ k, due = some k ∧ s.seq.step < k) :
    actionDue s = false := by
  rcases stop_cases due a with ⟨stop, _⟩ | ⟨stop, hw, hg⟩
  · exact actionDue_of_stopAt_none ((stopAt_cons hi).trans stop)
  · rcases h with rfl | ⟨d, rfl⟩ | rfl | ⟨k, rfl, hk⟩
    · exact absurd rfl hw
    · exact absurd rfl (hg d)
    · exact actionDue_of_stopAt_none ((stopAt_cons hi).trans stop)
    · exact actionDue_of_lt ((stopAt_cons hi).trans stop) hk

/-- Settles O7, by what lands and what waits. -/
theorem hostActionsLandInOrder : Obligations.HostActionsLandInOrder := by
  refine ⟨fun s due a rest hi h => ?_, fun s due a rest i hi hb hd h => ?_,
    fun s due rest hi hb => ?_, fun s hb hi => step_at_rest (takeAction_empty hi) hb⟩
  · have lands := takeAction_lands hi h
    exact ⟨lands, step_of_takeAction lands⟩
  · have waits := takeAction_not_due hb (actionDue_waits hi h)
    exact ⟨waits, step_running waits hb hd⟩
  · exact step_of_takeAction (takeAction_idle hi hb)

/-! ### Loads, and offsets without a register -/

/-- A load of a register's offset reads that register (R61, R65). -/
theorem step_load_reg {s s' : State} {r : HostReg}
    (h : takeAction s = some (.load (Config.P_BASE + regOffset r) 4, s')) :
    step s = .next { s' with got := s'.got ++ [readReg s' r] } := by
  rw [step_of_takeAction h]
  simp [hostAct, readAt]

theorem flagsWord_eq (g : Staging) : flagsWord g = if g.flag0 then 1#32 else 0#32 := by
  cases h : g.flag0 <;> simp [flagsWord, h]

/-- Settles O11: the second clause's list is the registers of the window, each at its offset. -/
theorem loadsReturnTheRegisterAtTheirOffset : Obligations.LoadsReturnTheRegisterAtTheirOffset := by
  refine ⟨fun s s' r h => step_load_reg h, fun s s' off v h hm => ?_⟩
  rw [← flagsWord_eq] at hm
  change (off, v) ∈ allRegs.map fun r => (regOffset r, readReg s' r) at hm
  obtain ⟨r, _, e⟩ := List.mem_map.1 hm
  cases e
  exact step_load_reg h

theorem mem_allRegs (r : HostReg) : r ∈ allRegs := List.mem_of_find?_eq_some (regAt_regOffset r)

/-- Settles O14: the offsets listed are those of the registers. -/
theorem unmappedOffsetsReadZeroIgnoreWrites : Obligations.UnmappedOffsetsReadZeroIgnoreWrites := by
  intro s s' off hoff h4 hm
  change off ∉ allRegs.map regOffset at hm
  have unmapped : regAt off = none :=
    regAt_unmapped fun r hr => hm (hr ▸ List.mem_map_of_mem (mem_allRegs r))
  have admitted := windowOffset_aligned hoff h4
  refine ⟨fun h => ?_, fun w h => ?_⟩
  · rw [step_of_takeAction h]
    simp [hostAct, admitted, readAt, unmapped]
  · rw [step_of_takeAction h]
    simp [hostAct, admitted, writeAt, unmapped]

/-! ### Refused accesses -/

/-- An access outside the window is refused, whatever its size (R90). -/
theorem windowOffset_outside {addr size : Nat}
    (h : addr < Config.P_BASE ∨ Config.P_BASE + 0x100 ≤ addr) :
    windowOffset Config.platform addr size = .error .hostAccessOutsideWindow :=
  if_pos h

/-- A load or store that the window refuses ends the run. -/
theorem step_refused {s s' : State} {addr size : Nat} {r : Refusal}
    (hw : windowOffset Config.platform addr size = .error r)
    (h : takeAction s = some (.load addr size, s') ∨
      ∃ w, takeAction s = some (.store addr size w, s')) : step s = .refused r := by
  rcases h with h | ⟨w, h⟩
  · rw [step_of_takeAction h]
    simp [hostAct, hw]
  · rw [step_of_takeAction h]
    simp [hostAct, hw]

/-- Settles O15, by why the window admits no such access. -/
theorem otherWidthsAndMisalignedRefused : Obligations.OtherWidthsAndMisalignedRefused :=
  ⟨fun _ _ _ _ hoff h4 => step_refused (windowOffset_refuses hoff h4),
    fun _ _ _ _ hout => step_refused (windowOffset_outside hout)⟩

/-! ### The byte order -/

theorem regOffset_aligned (r : HostReg) : regOffset r % 4 = 0 := by
  cases r <;> rfl

/-- Settles O16: the four bytes of a register share its aligned offset. -/
theorem windowIsLittleEndian : Obligations.WindowIsLittleEndian := by
  intro s r j hj
  have aligned := regOffset_aligned r
  have base : 4 * ((regOffset r + j) / 4) = regOffset r := by omega
  have byte : (regOffset r + j) % 4 = j := by omega
  rw [windowByte, base, byte, readAt, regAt_regOffset]

end Sys2Proof.Machine
end

section
/-! SUPPORT. Which steps cross the GPIO master port (20_memory.md R75 to R77, 40_line_driver.md R140,
44_session.md R250). -/

namespace Sys2Proof.Machine

/-- No host action but a block reset touches the port. -/
theorem HostEffect.port_eq {s t : State} {a : HostAction} (h : HostEffect s a t)
    (ha : a ≠ .blockReset) : t.port = s.port := by
  cases h with
  | resets => exact absurd rfl ha
  | _ => rfl

theorem WritesResults.port_eq {f : State → State} (hf : WritesResults f) (s : State) :
    (f s).port = s.port := by
  obtain ⟨_, _, _, _, _, h⟩ := hf s
  rw [h]

/-- Delays do not cross the port (R161). -/
theorem runMicros_port_of_delays {p : Platform} {ms : List Micro}
    (h : ∀ m ∈ ms, ∃ n, m.prim = .delay n) (s : State) : (runMicros p ms s).port = s.port := by
  induction ms generalizing s with
  | nil => rfl
  | cons m ms ih =>
    obtain ⟨n, hn⟩ := h m List.mem_cons_self
    rw [runMicros_cons, ih fun m hm => h m (List.mem_cons_of_mem _ hm)]
    simp [runMicro, runPrim, hn]

/-- A command whose rule names no GPIO access has no primitives but delays (R335). -/
theorem delays_of_accessCount_zero (p : Platform) {i : Instr} (h : accessCount i = 0) (s : State) :
    ∀ m ∈ (commandOf p i).micros s, ∃ n, m.prim = .delay n := by
  cases i with
  | delayUs n | delayMs n => exact List.forall_mem_singleton.2 ⟨_, rfl⟩
  | crcClear | crcUpdate | getRomidCrcSupport => exact List.forall_mem_nil _
  | _ => cases h

theorem accessCount_of_isDelay {i : Instr} (h : isDelay i = true) : accessCount i = 0 := by
  cases i with
  | delayUs | delayMs => rfl
  | _ => cases h

theorem RunsFrom.port_eq {p : Platform} {i : Instr} {s u : State} (h : RunsFrom p i s u) :
    u.port = s.port := by
  rcases h.cases with ⟨_, rfl⟩ | ⟨_, _, _, rfl⟩ <;> rfl

theorem RunsFrom.err_eq {p : Platform} {i : Instr} {s u : State} (h : RunsFrom p i s u) :
    u.err = s.err := by
  rcases h.cases with ⟨_, rfl⟩ | ⟨_, _, _, rfl⟩ <;> rfl

/-- The primitives of a command cross the port only if its rule names GPIO accesses. -/
theorem RunsFrom.accessCount_pos {p : Platform} {i : Instr} {s u : State} {ms : List Micro}
    (h : RunsFrom p i s u) (sub : ms.Sublist ((commandOf p i).micros u))
    (hne : (runMicros p ms u).port ≠ s.port) : 0 < accessCount i := by
  refine Nat.pos_of_ne_zero fun h0 => hne ?_
  have delays := delays_of_accessCount_zero p h0 u
  exact (runMicros_port_of_delays (fun m hm => delays m (sub.subset hm)) u).trans h.port_eq

/-- A command that names GPIO accesses runs its primitives under a context: the one it found, or the one
INIT adopts first (R77, R140, R250). -/
theorem RunsFrom.has_context {p : Platform} {i : Instr} {s u : State} (h : RunsFrom p i s u)
    (hs : RegistersOk s) (hb : s.seq.busy = true) (hd : decode s.seq.word = .ok i)
    (access : 0 < accessCount i) :
    s.ctxValid = true ∨ (i = .init ∧ valid s.seq.snapshot = true ∧ u.ctxValid = true) := by
  rcases h.mayRun hs hb hd with (hv | ⟨j, hj, delay⟩) | ⟨_, empty⟩
  · rcases h.cases with ⟨_, rfl⟩ | ⟨hi, _, snap, rfl⟩
    · exact .inl hv
    · exact .inr ⟨hi, snap, hv⟩
  · rw [h.word_eq, hd] at hj
    cases hj
    exact absurd (accessCount_of_isDelay delay) access.ne'
  · have length := commandOf_micros_length p i u
    rw [empty, List.length_nil, primCount] at length
    omega

/-- What a running command's step tells when it crosses the port. -/
theorem RunEffect.access {p : Platform} {i : Instr} {s t : State} (h : RunEffect p i s t)
    (hs : RegistersOk s) (hb : s.seq.busy = true) (hd : decode s.seq.word = .ok i)
    (hne : t.port ≠ s.port) : t.err = .none ∧ 0 < accessCount i ∧
      (s.ctxValid = true ∨ (i = .init ∧ valid s.seq.snapshot = true ∧ t.ctxValid = true)) := by
  cases h with
  | waits => exact absurd rfl hne
  | fails _ _ => exact absurd ((writesResults_zero p i).port_eq s) hne
  | stops ms runs sub =>
    obtain ⟨_, err, _⟩ := hs.lifecycle hb
    have access := runs.accessCount_pos sub hne
    refine ⟨(runMicros_err ..).trans (runs.err_eq.trans err), access, ?_⟩
    rw [runMicros_ctxValid]
    exact runs.has_context hs hb hd access
  | @completes u ms runs sub =>
    have port := (writesResults_result p i).port_eq (runMicros p ms u)
    have access := runs.accessCount_pos sub fun e => hne (port.trans e)
    refine ⟨rfl, access, (runs.has_context hs hb hd access).imp_right ?_⟩
    rintro ⟨rfl, snap, hv⟩
    exact ⟨rfl, snap, (runMicros_ctxValid ..).trans hv⟩

/-- Settles O52: of all steps a running command's alone crosses the port, and a block reset empties its
record. -/
theorem gpioAccessNeedsAContext : Obligations.GpioAccessNeedsAContext := by
  intro s t hs h hne
  rcases step_cases h with ⟨a, s', ha, he⟩ | ⟨_, _, rfl⟩ | ⟨_, _, _, rfl⟩ | ⟨_, hb, i, hd, he⟩
  · by_cases hr : a = .blockReset
    · subst hr
      cases he
      exact .inr ⟨rfl, s', ha⟩
    · obtain ⟨_, _, _, _, rfl, _⟩ := takeAction_some ha
      exact absurd ((hostAct_effect he).port_eq hr) hne
  · exact absurd rfl hne
  · exact absurd rfl hne
  · obtain ⟨err, access, context⟩ := (exec_effect he).access hs.registers hb hd hne
    exact .inl ⟨hb, err, i, hd, access, context⟩

end Sys2Proof.Machine
end

section
/-! SUPPORT. The decoder and the encoder (30_encoding.md R101 to R107): which bits a format fixes, the
operands a word carries, and that each undoes the other. -/

namespace Sys2Proof

open Sys2Proof.Laws.EncodedFormat

/-! ### The fixed bits of a format -/

/-- A slice of a word is 0 iff its bits are. -/
theorem slice_clear_iff (w : Word) (a n : Nat) : (w.extractLsb' a n == 0#n) = true ↔
    ∀ k, a ≤ k → k < a + n → w.getLsbD k = false := by
  rw [beq_iff_eq]
  refine ⟨fun h k ha hk => ?_, fun h => ?_⟩
  · have bit := congrArg (BitVec.getLsbD · (k - a)) h
    simpa [show k - a < n by omega, show a + (k - a) = k by omega] using bit
  · ext k hk
    simpa using h (a + k) (Nat.le_add_right a k) (by omega)

/-- R105's slices are the bits above OP that the format's mask holds fixed. -/
theorem reservedClear_iff_bits (w : Word) (f : Format) : reservedClear w f = true ↔
    ∀ k, 5 ≤ k → f.mask.getLsbD k = true → w.getLsbD k = false := by
  have high : ∀ k, f.mask.getLsbD k = true → k < 32 := fun k => BitVec.lt_of_getLsbD
  cases f with
  | N =>
    have fixed : ∀ k < 32, Format.N.mask.getLsbD k = true := by decide
    grind [reservedClear, slice_clear_iff]
  | B =>
    have fixed : ∀ k < 32, 5 ≤ k → (Format.B.mask.getLsbD k = true ↔ k < 8 ∨ 9 ≤ k) := by decide
    grind [reservedClear, slice_clear_iff]
  | D =>
    have fixed : ∀ k < 32, 5 ≤ k → (Format.D.mask.getLsbD k = true ↔ k < 16 ∨ 24 ≤ k) := by decide
    grind [reservedClear, slice_clear_iff]
  | T =>
    have fixed : ∀ k < 32, 5 ≤ k → (Format.T.mask.getLsbD k = true ↔ k < 16) := by decide
    grind [reservedClear, slice_clear_iff]

theorem getLsbD_opField (w : Word) (k : Nat) :
    ((opField w).setWidth 32).getLsbD k = (decide (k < 5) && w.getLsbD k) := by
  rw [BitVec.getLsbD_setWidth, opField, BitVec.getLsbD_extractLsb']
  grind

/-- A word's fixed bits are clear iff under the format's mask it is its opcode (R103, R105). -/
theorem reservedClear_iff_mask (w : Word) (f : Format) :
    reservedClear w f = true ↔ w &&& f.mask = (opField w).setWidth 32 := by
  have op : ∀ k < 5, f.mask.getLsbD k = true := by cases f <;> decide
  rw [reservedClear_iff_bits]
  refine ⟨fun h => BitVec.eq_of_getLsbD_eq fun k hk => ?_, fun h k h5 hm => ?_⟩
  · rw [BitVec.getLsbD_and, getLsbD_opField]
    by_cases h5 : k < 5
    · simp [h5, op k h5]
    · cases hm : f.mask.getLsbD k
      · simp [h5]
      · simp [h5, h k (by omega) hm]
  · have bit := congrArg (BitVec.getLsbD · k) h
    simpa only [BitVec.getLsbD_and, getLsbD_opField, hm, Bool.and_true, show ¬ k < 5 by omega,
      decide_false, Bool.false_and] using bit

/-! ### The rows of the opcode table -/

/-- Every command's word has its row's opcode and format, and its fixed bits clear (R103, R107). -/
theorem encodedFormat (i : Instr) : Statement i := by
  cases i with
  | init => exact init
  | teardown => exact teardown
  | reset => exact reset
  | writeBit bit => exact writeBit bit
  | readBit => exact readBit
  | writeByte byte => exact writeByte byte
  | readByte => exact readByte
  | setDirection dir => exact setDirection dir
  | setLevel lvl => exact setLevel lvl
  | readLevel => exact readLevel
  | delayUs n => exact delayUs n
  | delayMs n => exact delayMs n
  | crcClear => exact crcClear
  | crcUpdate byte => exact crcUpdate byte
  | getRomidCrcSupport => exact getRomidCrcSupport

/-- The opcode table's two columns list the same opcodes, 0x01 to 0x0F (R105, R107). -/
theorem formatOf_isSome_iff (op : BitVec 5) :
    (formatOf op).isSome = true ↔ 0x01 ≤ op.toNat ∧ op.toNat ≤ 0x0F := by
  revert op
  decide

theorem commandOfWord_isSome {w : Word} (h : 0x01 ≤ (opField w).toNat ∧ (opField w).toNat ≤ 0x0F) :
    ∃ i, commandOfWord w = some i := by
  obtain ⟨low, high⟩ := h
  unfold commandOfWord
  generalize (opField w).toNat = op at low high
  interval_cases op <;> exact ⟨_, rfl⟩

/-- What `decode` accepts (R105). -/
theorem decode_ok_iff (w : Word) (i : Instr) : decode w = .ok i ↔
    commandOfWord w = some i ∧ ∃ f, formatOf (opField w) = some f ∧ reservedClear w f = true := by
  unfold decode
  split
  next f j hf hj =>
    rw [hf, hj]
    split <;> simp_all
  next hn => exact ⟨nofun, fun ⟨hi, f, hf, _⟩ => absurd hi (hn f i hf)⟩

/-! ### Operands -/

theorem getLsbD_wordB (op : Word) (b : Bool) (k : Nat) :
    (wordB op b).getLsbD k = (op.getLsbD k || (decide (k = 8) && b)) := by
  have bit : ((BitVec.ofBool b).setWidth 32 <<< 8).getLsbD k = (decide (k = 8) && b) := by
    simp only [BitVec.getLsbD_shiftLeft, BitVec.getLsbD_setWidth, BitVec.getLsbD_ofBool]
    grind
  rw [wordB, BitVec.getLsbD_or, bit]

theorem getLsbD_wordD (op : Word) (d : Byte) (k : Nat) :
    (wordD op d).getLsbD k = (op.getLsbD k || (decide (16 ≤ k) && d.getLsbD (k - 16))) := by
  have bit : (d.setWidth 32 <<< 16).getLsbD k = (decide (16 ≤ k) && d.getLsbD (k - 16)) := by
    simp only [BitVec.getLsbD_shiftLeft, BitVec.getLsbD_setWidth]
    grind
  rw [wordD, BitVec.getLsbD_or, bit]

theorem getLsbD_wordT (op : Word) (n : BitVec 16) (k : Nat) :
    (wordT op n).getLsbD k = (op.getLsbD k || (decide (16 ≤ k) && n.getLsbD (k - 16))) := by
  have bit : (n.setWidth 32 <<< 16).getLsbD k = (decide (16 ≤ k) && n.getLsbD (k - 16)) := by
    simp only [BitVec.getLsbD_shiftLeft, BitVec.getLsbD_setWidth]
    grind
  rw [wordT, BitVec.getLsbD_or, bit]

theorem bField_wordB {op : Word} (h : op.getLsbD 8 = false) (b : Bool) : bField (wordB op b) = b := by
  rw [bField, getLsbD_wordB, h]
  rfl

/-- The operand of a D word stands at bits 23 to 16 (R103). -/
theorem dField_wordD {op : Word} (h : ∀ k < 8, op.getLsbD (16 + k) = false) (d : Byte) :
    dField (wordD op d) = d := by
  refine BitVec.eq_of_getLsbD_eq fun k hk => ?_
  rw [dField, BitVec.getLsbD_extractLsb', getLsbD_wordD, h k hk]
  simp [hk]

/-- The operand of a T word stands at bits 31 to 16 (R103). -/
theorem nField_wordT {op : Word} (h : ∀ k < 16, op.getLsbD (16 + k) = false) (n : BitVec 16) :
    nField (wordT op n) = n := by
  refine BitVec.eq_of_getLsbD_eq fun k hk => ?_
  rw [nField, BitVec.getLsbD_extractLsb', getLsbD_wordT, h k hk]
  simp [hk]

theorem directionOf_decide (dir : Direction) : directionOf (decide (dir = .output)) = dir := by
  cases dir <;> rfl

theorem levelOf_decide (lvl : Level) : levelOf (decide (lvl = .high)) = lvl := by
  cases lvl <;> rfl

/-- The word of a command carries its operand (R104). -/
theorem commandOfWord_encode (i : Instr) : commandOfWord (encode i) = some i := by
  have op : opField (encode i) = (row i).1 := (encodedFormat i).1
  unfold commandOfWord
  rw [op]
  cases i with
  | writeBit b => exact congrArg (some <| Instr.writeBit ·) (bField_wordB rfl b)
  | setDirection dir => exact congrArg some <| congrArg Instr.setDirection <|
      (congrArg directionOf (bField_wordB rfl _)).trans (directionOf_decide dir)
  | setLevel lvl => exact congrArg some <| congrArg Instr.setLevel <|
      (congrArg levelOf (bField_wordB rfl _)).trans (levelOf_decide lvl)
  | writeByte d => exact congrArg (some <| Instr.writeByte ·) (dField_wordD (by decide) d)
  | crcUpdate d => exact congrArg (some <| Instr.crcUpdate ·) (dField_wordD (by decide) d)
  | delayUs n => exact congrArg (some <| Instr.delayUs ·) (nField_wordT (by decide) n)
  | delayMs n => exact congrArg (some <| Instr.delayMs ·) (nField_wordT (by decide) n)
  | _ => rfl

theorem decode_encode (i : Instr) : decode (encode i) = .ok i := by
  obtain ⟨op, format, mask⟩ := encodedFormat i
  refine (decode_ok_iff _ _).2 ⟨commandOfWord_encode i, (row i).2, by rw [op, format], ?_⟩
  rw [reservedClear_iff_mask, mask, op]

/-- Four little-endian bytes hold the word they are cut from (R63). -/
theorem wordOfBytes_slices (w : Word) : wordOfBytes (w.extractLsb' 0 8) (w.extractLsb' 8 8)
    (w.extractLsb' 16 8) (w.extractLsb' 24 8) = w := by
  refine BitVec.eq_of_getLsbD_eq fun k hk => ?_
  simp only [wordOfBytes, BitVec.getLsbD_append, BitVec.getLsbD_extractLsb']
  grind

theorem decodeBytes_wordBytes {w : Word} {i : Instr} (h : decode w = .ok i) (rest : List Byte) :
    decodeBytes (wordBytes w ++ rest) = .ok (i, rest) := by
  simp [wordBytes, decodeBytes, wordOfBytes_slices, h]

/-- Settles O1, from the rows of the opcode table and the operands each word carries. -/
theorem decodeReadsEveryEncodedCommand : Obligations.DecodeReadsEveryEncodedCommand := fun i rest =>
  ⟨decode_encode i, decodeBytes_wordBytes (decode_encode i) rest⟩

/-! ### Legal words -/

/-- The word of format `f` with the opcode and the operands of `w` (R103). -/
def rebuilt (w : Word) : Format → Word
  | .N => wordN ((opField w).setWidth 32)
  | .B => wordB ((opField w).setWidth 32) (bField w)
  | .D => wordD ((opField w).setWidth 32) (dField w)
  | .T => wordT ((opField w).setWidth 32) (nField w)

/-- With every fixed bit clear a word is its opcode and its operands. -/
theorem rebuilt_eq {w : Word} {f : Format} (h : reservedClear w f = true) : rebuilt w f = w := by
  rw [reservedClear_iff_bits] at h
  refine BitVec.eq_of_getLsbD_eq fun k hk => ?_
  cases f with
  | N =>
    have fixed : ∀ k < 32, Format.N.mask.getLsbD k = true := by decide
    rw [rebuilt, wordN, getLsbD_opField]
    grind
  | B =>
    have fixed : ∀ k < 32, k ≠ 8 → Format.B.mask.getLsbD k = true := by decide
    rw [rebuilt, getLsbD_wordB, getLsbD_opField, bField]
    grind
  | D =>
    have fixed : ∀ k < 32, k < 16 ∨ 24 ≤ k → Format.D.mask.getLsbD k = true := by decide
    rw [rebuilt, getLsbD_wordD, getLsbD_opField, dField, BitVec.getLsbD_extractLsb']
    grind
  | T =>
    have fixed : ∀ k < 32, k < 16 → Format.T.mask.getLsbD k = true := by decide
    rw [rebuilt, getLsbD_wordT, getLsbD_opField, nField, BitVec.getLsbD_extractLsb']
    grind

/-- The command a word names has, of that opcode and those operands, the word of its format. -/
theorem encode_commandOfWord {w : Word} {i : Instr} {f : Format} (hi : commandOfWord w = some i)
    (hf : formatOf (opField w) = some f) : encode i = rebuilt w f := by
  have op : (opField w).setWidth 32 = BitVec.ofNat 32 (opField w).toNat :=
    (BitVec.ofNat_toNat ..).symm
  have bit : ∀ b, decide (directionOf b = .output) = b ∧ decide (levelOf b = .high) = b := by decide
  unfold commandOfWord at hi
  unfold formatOf at hf
  unfold rebuilt
  rw [op]
  generalize (opField w).toNat = n at hi hf
  split at hi <;> cases hi <;> cases hf <;> simp [encode, bit]

theorem encode_of_decode {w : Word} {i : Instr} (h : decode w = .ok i) : encode i = w := by
  obtain ⟨hi, f, hf, clear⟩ := (decode_ok_iff w i).1 h
  rw [encode_commandOfWord hi hf, rebuilt_eq clear]

/-- Settles O2: a legal word is rebuilt from its opcode and its operands. -/
theorem everyLegalWordIsItsCommandsWord : Obligations.EveryLegalWordIsItsCommandsWord :=
  fun _ _ => encode_of_decode

/-- The legality of R105, by the masks. -/
theorem legal_iff (w : Word) : (∃ i, decode w = .ok i) ↔
    0x01 ≤ (opField w).toNat ∧ (opField w).toNat ≤ 0x0F ∧
      ∃ f, formatOf (opField w) = some f ∧ w &&& f.mask = (opField w).setWidth 32 := by
  simp only [decode_ok_iff, reservedClear_iff_mask]
  refine ⟨fun ⟨i, _, f, hf, mask⟩ => ?_, fun ⟨low, high, f, hf, mask⟩ => ?_⟩
  · obtain ⟨low, high⟩ := (formatOf_isSome_iff _).1 (Option.isSome_of_eq_some hf)
    exact ⟨low, high, f, hf, mask⟩
  · obtain ⟨i, hi⟩ := commandOfWord_isSome ⟨low, high⟩
    exact ⟨i, hi, f, hf, mask⟩

/-- Settles O4, by running the decoder on each word. -/
theorem writtenOutWordsDecode : Obligations.WrittenOutWordsDecode := by
  unfold Obligations.WrittenOutWordsDecode
  decide

/-! ### The assembler -/

theorem assemble_eq_none_iff (l : AsmLine) : assemble l = none ↔ l.wellFormed = false := by
  simp [assemble]

/-- The lines an assembler refuses (R115). -/
theorem not_wellFormed_iff (l : AsmLine) : l.wellFormed = false ↔
    ∃ n, (l = .wbit n ∧ 1 < n) ∨ ((l = .wbyte n ∨ l = .crcUpd n) ∧ 0xFF < n) ∨
      ((l = .delayUs n ∨ l = .delayMs n) ∧ 0xFFFF < n) := by
  cases l <;> simp [AsmLine.wellFormed]

/-- Settles O5, by the operands that do not fit and the words of those that do. -/
theorem assemblerWordsAndRefusals : Obligations.AssemblerWordsAndRefusals := by
  refine ⟨fun l => (assemble_eq_none_iff l).trans (not_wellFormed_iff l), fun v hv => ?_,
    fun n hn => ?_, by decide⟩
  · have operand := BitVec.setWidth_ofNat_of_le_of_lt (w := 8) (v := 32) (x := v) (by omega) (by omega)
    simp [assemble, AsmLine.wellFormed, AsmLine.instr, hv, encode, wordD, operand]
  · have operand := BitVec.setWidth_ofNat_of_le_of_lt (w := 16) (v := 32) (x := n) (by omega) (by omega)
    simp [assemble, AsmLine.wellFormed, AsmLine.instr, hn, encode, wordT, operand]

end Sys2Proof
end

section
/-! SUPPORT. A step of the running command, and what a store to CMD does when idle and under BUSY
(30_encoding.md R105, R106, R108, R111, 44_session.md R251). -/

namespace Sys2Proof.Machine

/-- Settles O3, by what the masks say and the step of an illegal word. -/
theorem legalWordsAndIllegalCompletion : Obligations.LegalWordsAndIllegalCompletion := by
  refine ⟨legal_iff, fun s hb due illegal => ?_⟩
  cases hd : decode s.seq.word with
  | ok i => exact absurd hd (illegal i)
  | error e => exact step_illegal (takeAction_not_due hb due) hb hd

/-- Settles O6: with no action due, the running command's step is all there is. -/
theorem stepRunsTheDecodedCommand : Obligations.StepRunsTheDecodedCommand :=
  fun _ _ hb due hd => step_running (takeAction_not_due hb due) hb hd

/-! ### Acceptance -/

theorem step_store_cmd {s s' : State} {w : Word}
    (h : takeAction s = some (.store Config.P_BASE 4 w, s')) : step s = .next (writeCmd w s') :=
  step_store_reg (r := .CMD) h

/-- INIT has one word (R103). -/
theorem decode_eq_init_iff (w : Word) : decode w = .ok .init ↔ w = 0x00000001#32 :=
  ⟨fun h => (encode_of_decode h).symm, fun h => h ▸ decode_encode .init⟩

theorem flagsWord_bit (g : Staging) : (flagsWord g).getLsbD 0 = g.flag0 := by
  simp [flagsWord]

/-- Settles O8: the snapshot is taken by the one word that decodes to INIT. -/
theorem cmdStoreIsAcceptedWhenIdle : Obligations.CmdStoreIsAcceptedWhenIdle := by
  refine ⟨fun s s' w h hb => ?_, fun s => ?_⟩
  · rw [step_store_cmd h, writeCmd, hb, if_neg Bool.false_ne_true, accept]
    simp only [decode_eq_init_iff]
    rfl
  · simp only [readReg, flagsWord_bit]
    rfl

/-! ### Dropping -/

/-- What the window admits lies in it and is four bytes wide (R60, R62). -/
theorem windowOffset_ok {p : Platform} {addr size off : Nat}
    (h : windowOffset p addr size = .ok off) : addr = p.P_BASE + off ∧ size = 4 := by
  unfold windowOffset at h
  split at h
  · cases h
  · split at h
    · cases h
    · split at h
      · cases h
      · cases h
        omega

theorem regOffset_of_regAt {off : Nat} {r : HostReg} (h : regAt off = some r) :
    regOffset r = off := by
  simpa using List.find?_some h

/-- Of all registers only STATUS, stored with bit 11, clears OVR (R30, R65, R106). -/
theorem writeReg_clears_ovr {r : HostReg} {w : Word} {s : State} (hs : s.ovr = true)
    (ht : (writeReg r w s).ovr = false) : r = .STATUS ∧ w.getLsbD 11 = true := by
  cases r with
  | STATUS =>
    rw [writeReg, writeStatus_eq] at ht
    simpa [hs] using ht
  | CMD =>
    simp only [writeReg, writeCmd] at ht
    split at ht <;> simp [hs] at ht
  | _ => exact absurd (hs.symm.trans ht) (by decide)

/-- The host actions that clear OVR: a store of bit 11 to STATUS, and a block reset (R106, R312). -/
theorem hostAct_clears_ovr {p : Platform} {a : HostAction} {s t : State}
    (h : hostAct p a s = .next t) (hs : s.ovr = true) (ht : t.ovr = false) :
    (∃ w, a = .store (p.P_BASE + 4) 4 w ∧ w.getLsbD 11 = true) ∨ a = .blockReset := by
  cases a with
  | blockReset => exact .inr rfl
  | store addr size w =>
    simp only [hostAct] at h
    split at h
    next off hoff =>
      cases h
      obtain ⟨rfl, rfl⟩ := windowOffset_ok hoff
      unfold writeAt at ht
      split at ht
      next r hr =>
        obtain ⟨rfl, bit⟩ := writeReg_clears_ovr hs ht
        exact .inl ⟨w, by rw [← regOffset_of_regAt hr]; rfl, bit⟩
      next => simp [hs] at ht
    next => cases h
  | load addr size =>
    simp only [hostAct] at h
    split at h <;> cases h
    simp [hs] at ht
  | wait | idle d => cases h; simp [hs] at ht

theorem WritesResults.ovr_eq {f : State → State} (hf : WritesResults f) (s : State) :
    (f s).ovr = s.ovr := by
  obtain ⟨_, _, _, _, _, h⟩ := hf s
  rw [h]

theorem RunsFrom.ovr_eq {p : Platform} {i : Instr} {s u : State} (h : RunsFrom p i s u) :
    u.ovr = s.ovr := by
  rcases h.cases with ⟨_, rfl⟩ | ⟨_, _, _, rfl⟩ <;> rfl

/-- No command touches OVR. -/
theorem RunEffect.ovr_eq {p : Platform} {i : Instr} {s t : State} (h : RunEffect p i s t) :
    t.ovr = s.ovr := by
  cases h with
  | waits => rfl
  | fails _ _ => exact (writesResults_zero p i).ovr_eq s
  | stops ms runs _ => exact (runMicros_ovr ..).trans runs.ovr_eq
  | completes ms runs _ =>
    exact ((writesResults_result p i).ovr_eq _).trans ((runMicros_ovr ..).trans runs.ovr_eq)

/-- Settles O9: of all steps the two host actions alone clear OVR. -/
theorem cmdStoreIsDroppedWhenBusy : Obligations.CmdStoreIsDroppedWhenBusy := by
  refine ⟨fun s s' w h hb => ?_, fun s t h hs ht => ?_⟩
  · rw [step_store_cmd h, writeCmd, hb]
    rfl
  · have kept : t.ovr ≠ s.ovr := by simp [hs, ht]
    rcases step_cases h with ⟨a, s', ha, he⟩ | ⟨_, _, rfl⟩ | ⟨_, _, _, rfl⟩ | ⟨_, _, i, _, he⟩
    · obtain ⟨_, _, _, _, rfl, _⟩ := takeAction_some ha
      rcases hostAct_clears_ovr he hs ht with ⟨w, rfl, bit⟩ | rfl
      · exact .inl ⟨w, _, ha, bit⟩
      · exact .inr ⟨_, ha⟩
    · exact absurd rfl kept
    · exact absurd rfl kept
    · exact absurd (exec_effect he).ovr_eq kept

end Sys2Proof.Machine
end

section
/-! SUPPORT. Runs of the host programs (30_encoding.md R115, R116): a command of a program is its store,
its run and the `wait` after it, which lead to one state. -/

namespace Sys2Proof.Machine

/-- `n` steps lead from `s` to `t`. -/
def RunsTo (n : Nat) (s t : State) : Prop := Host.Core.run core n s = .next t

theorem RunsTo.of_step {s t : State} (h : step s = .next t) : RunsTo 1 s t := run_succ h 0

theorem RunsTo.trans {m n k : Nat} {s t u : State} (h : RunsTo m s t) (g : RunsTo n t u)
    (hk : m + n = k) : RunsTo k s u := by
  subst hk
  induction m generalizing s with
  | zero => cases h; rwa [Nat.zero_add]
  | succ m ih =>
    rw [Nat.succ_add]
    unfold RunsTo at *
    cases hs : step s with
    | next v => rw [run_succ hs] at h ⊢; exact ih h
    | fault r => cases r
    | refused r => simp [Host.Core.run, show core.step s = .refused r from hs] at h

/-- The state with other actions to come. -/
def withInbox (b : List HostEntry) (s : State) : State := { s with inbox := b }

/-- The state in which a command that passes its check leaves OWM, accepted in `s` and undisturbed. -/
def afterCommand (i : Instr) (s : State) : State :=
  completed Config.platform i ((commandOf Config.platform i).load (accept (encode i) s))

theorem completed_withInbox (p : Platform) (i : Instr) (u : State) (b : List HostEntry) :
    outside u.staging u.ovr u.got b (completed p i u) = withInbox b (completed p i u) :=
  (congrArg (withInbox b) (completed_outside p i u.staging u.ovr u.got u.inbox u)).symm

/-- A running command that no action to come interrupts completes at its next step. -/
theorem RunsFrom.step_undisturbed {i : Instr} {s u : State} {b : List HostEntry}
    (h : RunsFrom Config.platform i s u) (hb : s.seq.busy = true) (hd : decode s.seq.word = .ok i)
    (hn : stopAt (withInbox b s) = none) :
    step (withInbox b s) = .next (withInbox b (completed Config.platform i u)) := by
  have same : withInbox b s = outside u.staging u.ovr u.got b s := by
    rcases h.cases with ⟨_, rfl⟩ | ⟨_, _, _, rfl⟩ <;> rfl
  rw [same, h.completesAs hb hd u.staging u.ovr u.got b (same ▸ hn), completed_withInbox]

/-- The three steps of a command in a host program (R116). -/
theorem runsTo_hostCommand {i : Instr} {s : State} {rest : List HostEntry}
    (idle : s.seq.busy = false) (inbox : s.inbox = hostCommand Config.platform i ++ rest)
    (passes : (commandOf Config.platform i).check (accept (encode i) s) = .none) :
    RunsTo 3 s (withInbox rest (afterCommand i s)) := by
  have stored : step s = .next (withInbox (hostWait :: rest) (accept (encode i) s)) := by
    have idle' : ¬ (withInbox (hostWait :: rest) s).seq.busy = true := by simp [withInbox, idle]
    exact (step_store_reg (r := .CMD) (takeAction_idle inbox idle)).trans
      (congrArg Host.Outcome.next (if_neg idle'))
  have ran : step (withInbox (hostWait :: rest) (accept (encode i) s)) =
      .next (withInbox (hostWait :: rest) (afterCommand i s)) := by
    have runs : RunsFrom Config.platform i (accept (encode i) s)
        ((commandOf Config.platform i).load (accept (encode i) s)) := .inl ⟨rfl, passes, rfl⟩
    exact runs.step_undisturbed rfl (decode_encode i) rfl
  have waited : step (withInbox (hostWait :: rest) (afterCommand i s)) =
      .next (withInbox rest (afterCommand i s)) :=
    step_of_takeAction (takeAction_idle (e := hostWait) rfl rfl)
  exact run_three stored ran waited

/-- The step of a load in a host program. -/
theorem runsTo_hostLoad {r : HostReg} {s : State} {rest : List HostEntry}
    (idle : s.seq.busy = false) (inbox : s.inbox = hostLoad Config.platform r :: rest) :
    RunsTo 1 s { withInbox rest s with got := s.got ++ [readReg (withInbox rest s) r] } :=
  .of_step (step_load_reg (takeAction_idle inbox idle))

/-! ### What a command leaves as it was -/

section AfterCommand

variable (i : Instr) (s : State)

@[simp] theorem afterCommand_busy : (afterCommand i s).seq.busy = false := rfl

@[simp] theorem afterCommand_err : (afterCommand i s).err = .none := rfl

/-- A command touches nothing outside its sequencer, its results and the session (R109). -/
theorem afterCommand_outside : (afterCommand i s).got = s.got ∧ (afterCommand i s).ovr = s.ovr ∧
    (afterCommand i s).epoch = s.epoch := by
  obtain ⟨_, _, _, _, _, h⟩ := writesResults_result Config.platform i (runMicros Config.platform
    (((commandOf Config.platform i).micros _).drop _)
    ((commandOf Config.platform i).load (accept (encode i) s)))
  rw [afterCommand, completed, h]
  rcases load_cases Config.platform i (accept (encode i) s) with ⟨_, e⟩ | ⟨_, e⟩ <;> simp [e]

@[simp] theorem afterCommand_got : (afterCommand i s).got = s.got := (afterCommand_outside i s).1

@[simp] theorem afterCommand_ovr : (afterCommand i s).ovr = s.ovr := (afterCommand_outside i s).2.1

@[simp] theorem afterCommand_epoch : (afterCommand i s).epoch = s.epoch := (afterCommand_outside i s).2.2

variable {i} in
/-- Only INIT and TEARDOWN change the session (R23). -/
theorem afterCommand_session (hi : i ≠ .init) (ht : i ≠ .teardown) :
    (afterCommand i s).ctx = s.ctx ∧ (afterCommand i s).ctxValid = s.ctxValid := by
  obtain ⟨ctx, valid⟩ := result_session Config.platform ht (runMicros Config.platform
    (((commandOf Config.platform i).micros _).drop _)
    ((commandOf Config.platform i).load (accept (encode i) s)))
  rw [afterCommand, completed, finish_ctx, finish_ctxValid, ctx, valid]
  rcases load_cases Config.platform i (accept (encode i) s) with ⟨h, _⟩ | ⟨_, e⟩
  · exact absurd h hi
  · simp [e]

end AfterCommand

end Sys2Proof.Machine
end

section
/-! SUPPORT. The host programs that fold bytes into the CRC, and `idle` (30_encoding.md R116, 43_crc.md
R225 to R227, 70_reset_and_hazards.md R322). -/

namespace Sys2Proof.Machine

/-! ### When the CRC is 0 -/

/-- Bits still to come can be put on the register at once: their first is folded in, the rest shift. -/
theorem crcBit_xor (c x : Byte) : crcBit (c ^^^ x) false = crcBit c (x.getLsbD 0) ^^^ (x >>> 1) := by
  unfold crcBit
  rw [BitVec.getLsbD_xor, Bool.xor_false, BitVec.ushiftRight_xor_distrib]
  split
  · rw [BitVec.xor_assoc, BitVec.xor_assoc, BitVec.xor_comm (x >>> 1)]
  · rfl

/-- R227: the register and the byte enter the update by their sum alone. -/
theorem crcByte_eq_of_xor (c v : Byte) : crcByte c v = crcByte (c ^^^ v) 0#8 := by
  have out : v >>> 8 = 0#8 := by
    ext k hk
    simp
  simp [crcByte, bitOrder, byteBit, crcBit_xor, out]

theorem crcBit_false_eq_zero_iff (c : Byte) : crcBit c false = 0#8 ↔ c = 0#8 := by
  revert c
  decide

theorem crcByte_eq_zero_iff (c v : Byte) : crcByte c v = 0#8 ↔ v = c := by
  rw [crcByte_eq_of_xor]
  simpa [crcByte, bitOrder, byteBit, crcBit_false_eq_zero_iff] using eq_comm

/-- R226, R227: the CRC over a sequence is 0 iff its last byte is the CRC of those before it. -/
theorem crc8_eq_zero_iff {bs : List Byte} (h : bs ≠ []) :
    crc8 bs = 0#8 ↔ ∃ b x, bs = b ++ [x] ∧ x = crc8 b := by
  have snoc : ∀ b x, crc8 (b ++ [x]) = 0#8 ↔ x = crc8 b := fun b x => by
    simp [crc8, crcByte_eq_zero_iff]
  refine ⟨fun hz => ⟨bs.dropLast, bs.getLast h, (List.dropLast_concat_getLast h).symm, ?_⟩, ?_⟩
  · rwa [← snoc, List.dropLast_concat_getLast]
  · rintro ⟨b, x, rfl, hx⟩
    exact (snoc b x).2 hx

/-! ### The programs -/

theorem countUp_toNat (n : BitVec 16) : (countUp n).toNat = min (n.toNat + 1) 0xFFFF := by
  unfold countUp
  split
  next h => rw [h]; rfl
  next h =>
    have : n.toNat ≠ 0xFFFF := fun e => h (BitVec.eq_of_toNat_eq e)
    bv_omega

/-- The CRC_UPDATE commands of a program fold their bytes in order and count them (R224). -/
theorem runsTo_crcUpdates (bs : List Byte) (rest : List HostEntry) {s : State}
    (idle : s.seq.busy = false)
    (inbox : s.inbox = hostCommands Config.platform (bs.map .crcUpdate) ++ rest) :
    ∃ t, RunsTo (3 * bs.length) s t ∧ t.seq.busy = false ∧ t.inbox = rest ∧ t.got = s.got ∧
      t.crcAcc = bs.foldl crcByte s.crcAcc ∧
      t.crcCount.toNat = min (s.crcCount.toNat + bs.length) 0xFFFF := by
  induction bs generalizing s with
  | nil => exact ⟨s, rfl, idle, inbox, rfl, rfl, by simp; omega⟩
  | cons v bs ih =>
    have first := runsTo_hostCommand (i := .crcUpdate v) idle (inbox.trans (List.append_assoc ..)) rfl
    obtain ⟨t, run, busy, left, got, acc, count⟩ :=
      ih (s := withInbox _ (afterCommand (.crcUpdate v) s)) rfl rfl
    refine ⟨t, first.trans run (by rw [List.length_cons]; omega), busy, left,
      got.trans (afterCommand_got ..), acc, ?_⟩
    rw [count, show (withInbox _ (afterCommand (.crcUpdate v) s)).crcCount = countUp s.crcCount from rfl,
      countUp_toNat, List.length_cons]
    omega

/-- A program that clears the CRC, folds the bytes and loads a register (R116). -/
theorem runsTo_crcProgram (bs : List Byte) (r : HostReg) {s : State} (idle : s.seq.busy = false)
    (inbox : s.inbox = hostCommands Config.platform (.crcClear :: bs.map .crcUpdate) ++
      [hostLoad Config.platform r]) :
    ∃ t : State, RunsTo (3 * bs.length + 4) s { t with got := s.got ++ [readReg t r] } ∧
      t.inbox = [] ∧ t.crcAcc = crc8 bs ∧ t.crcCount.toNat = min bs.length 0xFFFF := by
  have cleared := runsTo_hostCommand (i := .crcClear) idle (inbox.trans (List.append_assoc ..)) rfl
  obtain ⟨t, updates, busy, left, got, acc, count⟩ :=
    runsTo_crcUpdates bs [hostLoad Config.platform r]
      (s := withInbox _ (afterCommand .crcClear s)) rfl rfl
  have loaded := runsTo_hostLoad busy left
  rw [got.trans (afterCommand_got ..)] at loaded
  exact ⟨withInbox [] t, cleared.trans (updates.trans loaded rfl) (by omega), rfl, acc,
    count.trans (congrArg (min · 0xFFFF) (Nat.zero_add _))⟩

/-- Settles O44: the load reads the CRC register. -/
theorem computeCrc8Program : Obligations.ComputeCrc8Program := by
  intro bs s idle inbox
  obtain ⟨t, run, left, acc, count⟩ := runsTo_crcProgram bs .CRC idle inbox
  obtain ⟨low, _, high⟩ := crcWord_fields t
  exact ⟨_, _, run, rfl, left, low.trans acc, (congrArg BitVec.toNat high).trans count⟩

/-- Settles O45: the load reads STATUS, and CRC_OK needs a byte and a zero CRC. -/
theorem romidCrcValidProgram : Obligations.RomidCrcValidProgram := by
  intro bs s idle inbox
  obtain ⟨t, run, left, acc, count⟩ := runsTo_crcProgram bs .STATUS idle inbox
  obtain ⟨_, _, _, _, crc, _⟩ := statusWord_flags t
  refine ⟨_, _, run, rfl, left, ?_⟩
  rw [readReg, crc, crcOk_iff, acc]
  cases bs with
  | nil => simp [BitVec.eq_of_toNat_eq (y := 0#16) count]
  | cons v bs =>
    have counted : t.crcCount ≠ 0#16 := fun h => by
      rw [h, List.length_cons, BitVec.toNat_zero] at count
      omega
    rw [← crc8_eq_zero_iff (List.cons_ne_nil v bs)]
    simp [counted]

/-! ### The program `idle` -/

theorem afterCommand_setLevel (lvl : Level) (s : State) :
    (afterCommand (.setLevel lvl) s).line = { s.line with lvl := lvl } ∧
      (afterCommand (.setLevel lvl) s).presence = s.presence ∧
      (afterCommand (.setLevel lvl) s).rxdata = s.rxdata := by
  cases lvl <;> exact ⟨rfl, rfl, rfl⟩

theorem afterCommand_setDirection (dir : Direction) (s : State) :
    (afterCommand (.setDirection dir) s).line = { s.line with dir := dir } ∧
      (afterCommand (.setDirection dir) s).presence = s.presence ∧
      (afterCommand (.setDirection dir) s).rxdata = s.rxdata := by
  cases dir <;> exact ⟨rfl, rfl, rfl⟩

/-- Settles O46: SET_LEVEL writes the latch, SET_DIRECTION the direction. -/
theorem idleProgramRestoresTheIdleLine : Obligations.IdleProgramRestoresTheIdleLine := by
  intro s idle context inbox
  have level := runsTo_hostCommand (i := .setLevel .high) idle inbox (needCtx_eq_none.2 context)
  have idle1 := afterCommand_busy (.setLevel .high) s
  have valid1 := (afterCommand_session (i := .setLevel .high) s nofun nofun).2.trans context
  obtain ⟨line1, presence1, rxdata1⟩ := afterCommand_setLevel .high s
  generalize afterCommand (.setLevel .high) s = t at *
  have direction := runsTo_hostCommand (i := .setDirection .output) (rest := [])
    (s := withInbox (hostCommand Config.platform (.setDirection .output)) t) idle1 rfl
    (needCtx_eq_none.2 valid1)
  have err2 := afterCommand_err (.setDirection .output)
    (withInbox (hostCommand Config.platform (.setDirection .output)) t)
  obtain ⟨line2, presence2, rxdata2⟩ := afterCommand_setDirection .output
    (withInbox (hostCommand Config.platform (.setDirection .output)) t)
  refine ⟨_, level.trans direction rfl, line2.trans ?_, rfl, err2,
    presence2.trans presence1, rxdata2.trans rxdata1⟩
  exact congrArg (fun l : Line => { l with dir := .output }) line1

end Sys2Proof.Machine
end

section
/-! SUPPORT. Samples as the environment's answers (10_state.md R46), and the host program `presence`
(30_encoding.md R116, 42_transport.md R185). -/

namespace Sys2Proof.Machine

/-! ### Samples -/

/-- Every sample among the events `es` is the environment's answer over the history before it, which
starts with `h`; `e` counts the block resets before (R46). -/
def AnsweredFrom (e : Nat) (h es : List Event) : Prop :=
  ∀ before l u after, es = before ++ .sample l u :: after → l = Config.env e (h ++ before) u

theorem AnsweredFrom.of_no_sample {e : Nat} {h es : List Event} (hn : es.filterMap sampled = []) :
    AnsweredFrom e h es := by
  rintro before l u after rfl
  simp [sampled] at hn

theorem AnsweredFrom.append {e : Nat} {h es fs : List Event} (hes : AnsweredFrom e h es)
    (hfs : AnsweredFrom e (h ++ es) fs) : AnsweredFrom e h (es ++ fs) := by
  intro before l u after eq
  rcases List.append_eq_append_iff.1 eq with ⟨mid, rfl, hf⟩ | ⟨mid, he, hm⟩
  · rw [← List.append_assoc]
    exact hfs mid l u after hf
  · rcases List.cons_eq_append_iff.1 hm with ⟨rfl, hf⟩ | ⟨mid, rfl, _⟩
    · have answer := hfs [] l u after hf
      simpa [he] using answer
    · exact hes before l u mid he

/-! ### The program `presence` -/

/-- A RESET in a program takes one sample, which PRESENCE records (R185, R187). -/
theorem afterCommand_reset {s : State} (mask : s.ctx.mIn ≠ 0#32) : ∃ before l u after,
    (afterCommand .reset s).hist = s.hist ++ before ++ .sample l u :: after ∧
      before.filterMap sampled = [] ∧ after.filterMap sampled = [] ∧
      l = Config.env s.epoch (s.hist ++ before) u ∧
      (afterCommand .reset s).presence = decide (l = .low) := by
  obtain ⟨t1, t2, t3, t4, t5, t6, t7, l, w, _, _, _, _, _, _, _, answer, _, run⟩ :=
    rstseq_next Config.platform (accept (encode .reset) s) mask
  have completes : afterCommand .reset s = finish .none (sampleToPresence
    (runMicros Config.platform (plain (rstseq Config.platform)) (accept (encode .reset) s))) := rfl
  rw [accept_hist, List.append_assoc] at answer
  refine ⟨_, l, t6, [.wait Config.T_RSTREC (t7 - t6) t7, .cmdEnd (opField (encode .reset)) .none t7],
    ?_, ?_, rfl, answer, ?_⟩
  · rw [completes, run]
    simp [sampleToPresence]
  · rfl
  · rw [completes, run]
    rfl

/-- Settles O59: the load reads the PRESENCE that RESET has written. -/
theorem presenceProgram : Obligations.PresenceProgram := by
  intro s idle context mask inbox
  have reset := runsTo_hostCommand (i := .reset) idle inbox (needCtx_eq_none.2 context)
  obtain ⟨before, l, u, after, hist, none_before, none_after, answer, presence⟩ :=
    afterCommand_reset mask
  have got := afterCommand_got .reset s
  have err := afterCommand_err .reset s
  have idle1 := afterCommand_busy .reset s
  generalize afterCommand .reset s = t at *
  have load := runsTo_hostLoad (r := .STATUS) (rest := [])
    (s := withInbox [hostLoad Config.platform .STATUS] t) idle1 rfl
  obtain ⟨_, _, _, bit, _⟩ := statusWord_flags (withInbox [] t)
  refine ⟨_, _, before, l, u, after, reset.trans load rfl, rfl, congrArg (· ++ _) got, err, hist,
    none_before, none_after, answer, ?_⟩
  rw [readReg]
  refine Iff.trans (Eq.congr_left ?_) decide_eq_true_iff
  exact bit.trans presence

end Sys2Proof.Machine
end

section
/-! SUPPORT. The host programs `wbytes` and `rbytes` (30_encoding.md R116, 42_transport.md R200, R201). -/

namespace Sys2Proof.Machine

/-! ### Byte commands in a program -/

/-- From the idle state `s` a program goes on to the idle state `t` under the same context, drops no word,
and the events `es` happen. -/
structure GoesOn (s : State) (es : List Event) (t : State) : Prop where
  idle : s.seq.busy = false → t.seq.busy = false
  context : t.ctxValid = s.ctxValid
  ctx : t.ctx = s.ctx
  ovr : t.ovr = s.ovr
  epoch : t.epoch = s.epoch
  hist : t.hist = s.hist ++ es

theorem GoesOn.refl (s : State) : GoesOn s [] s :=
  ⟨id, rfl, rfl, rfl, rfl, (List.append_nil _).symm⟩

theorem GoesOn.trans {s t u : State} {es fs : List Event} (h : GoesOn s es t) (g : GoesOn t fs u) :
    GoesOn s (es ++ fs) u where
  idle := g.idle ∘ h.idle
  context := g.context.trans h.context
  ctx := g.ctx.trans h.ctx
  ovr := g.ovr.trans h.ovr
  epoch := g.epoch.trans h.epoch
  hist := by rw [g.hist, h.hist, List.append_assoc]

/-- What is to come and what has been read make no difference. -/
theorem GoesOn.host {s t : State} {es : List Event} (h : GoesOn s es t) (b : List HostEntry)
    (v : List Word) : GoesOn s es { t with inbox := b, got := v } :=
  ⟨h.idle, h.context, h.ctx, h.ovr, h.epoch, h.hist⟩

theorem goesOn_afterCommand {i : Instr} {s : State} {es : List Event} (hi : i ≠ .init)
    (ht : i ≠ .teardown) (hist : (afterCommand i s).hist = s.hist ++ es) :
    GoesOn s es (afterCommand i s) where
  idle _ := rfl
  context := (afterCommand_session s hi ht).2
  ctx := (afterCommand_session s hi ht).1
  ovr := afterCommand_ovr i s
  epoch := afterCommand_epoch i s
  hist := hist

/-- A state as a byte command leaves it: no error, the line released, its latch Low (R183). -/
def Released (s : State) : Prop := s.err = .none ∧ s.line = ⟨.input, .low⟩

/-- Primitives accept no word. -/
theorem Stamped.no_start {p : Platform} {a b : Nat} {es : List Event} (h : Stamped p a es b) :
    es.filterMap startWord = [] := by
  induction es generalizing a with
  | nil => rfl
  | cons e es ih =>
    cases e with
    | drive | sample => exact ih h.2
    | wait => exact ih h.2.2
    | _ => exact h.elim

/-- Reading a command's events, a reader of neither acceptances nor completions reads its primitives'. -/
theorem filterMap_command {α : Type} (f : Event → Option α) {first last : Event}
    (hf : f first = none) (hl : f last = none) (es : List Event) :
    (first :: (es ++ [last])).filterMap f = es.filterMap f := by
  simp [hf, hl]

/-- A command's events hold the one word it was accepted with. -/
theorem startWord_command {p : Platform} {a b : Nat} {es : List Event} (h : Stamped p a es b)
    (w : Word) (op : BitVec 5) (e : ErrCode) (t u : Nat) :
    (.cmdStart w t :: (es ++ [.cmdEnd op e u])).filterMap startWord = [w] := by
  simp [List.filterMap_cons, startWord, h.no_start]

/-! ### The program `wbytes` -/

/-- The write slots of a byte (R200). -/
def byteShape (c : Context) (v : Byte) : List Shape :=
  [0, 1, 2, 3, 4, 5, 6, 7].flatMap fun i =>
    if v.getLsbD i then writeSlotShape Config.T_W1L Config.T_W1H
    else writeSlotShape c.tWbl.toNat Config.T_W0REC

/-- A WRITE_BYTE in a program sends the slots of its byte. -/
theorem afterCommand_writeByte (v : Byte) (s : State) : ∃ es,
    (afterCommand (.writeByte v) s).hist = s.hist ++ es ∧
      Released (afterCommand (.writeByte v) s) ∧
      es.filterMap startWord = [encode (.writeByte v)] ∧ es.filterMap shapeOf = byteShape s.ctx v := by
  obtain ⟨t, es, run, hist, _, stamped, shape, ht⟩ := writeSlots_next Config.platform s.ctx v bitOrder
    (loadShift v (accept (encode (.writeByte v)) s)) (by decide)
  have completes : afterCommand (.writeByte v) s = finish .none t := congrArg (finish .none) run
  rw [completes]
  refine ⟨.cmdStart (encode (.writeByte v)) s.now :: (es ++ [.cmdEnd t.seq.op .none t.now]),
    ?_, ⟨rfl, ?_⟩, startWord_command stamped .., (filterMap_command shapeOf rfl rfl es).trans shape⟩
  · rw [finish_hist, hist]
    simp
  · rw [finish_line, ht]

/-- The three steps of a WRITE_BYTE in a program. -/
theorem runsTo_writeByte (v : Byte) (rest : List HostEntry) {s : State} (idle : s.seq.busy = false)
    (context : s.ctxValid = true)
    (inbox : s.inbox = hostCommand Config.platform (.writeByte v) ++ rest) :
    ∃ t es, RunsTo 3 s t ∧ GoesOn s es t ∧ t.inbox = rest ∧ t.got = s.got ∧ Released t ∧
      es.filterMap startWord = [encode (.writeByte v)] ∧ es.filterMap shapeOf = byteShape s.ctx v := by
  obtain ⟨es, hist, sends⟩ := afterCommand_writeByte v s
  have command := runsTo_hostCommand (i := .writeByte v) idle inbox (needCtx_eq_none.2 context)
  have goes := goesOn_afterCommand (i := .writeByte v) nofun nofun hist
  have got := afterCommand_got (.writeByte v) s
  generalize afterCommand (.writeByte v) s = u at *
  exact ⟨_, es, command, goes.host rest _, rfl, got, sends⟩

/-- Byte by byte: the words accepted and the slots on the wire (R200). -/
theorem runsTo_wbytes (bs : List Byte) {s : State} (idle : s.seq.busy = false)
    (context : s.ctxValid = true) (inbox : s.inbox = expand Config.platform (.wbytes bs)) :
    ∃ t es, RunsTo (3 * bs.length) s t ∧ GoesOn s es t ∧ t.inbox = [] ∧ t.got = s.got ∧
      (bs ≠ [] ∨ Released s → Released t) ∧
      es.filterMap startWord = bs.map (fun v => encode (.writeByte v)) ∧
      es.filterMap shapeOf = bs.flatMap (byteShape s.ctx) := by
  induction bs generalizing s with
  | nil => exact ⟨s, [], rfl, .refl s, inbox, rfl, by simp, rfl, rfl⟩
  | cons v bs ih =>
    obtain ⟨t, es, first, goes, left, got, released, words, shapes⟩ :=
      runsTo_writeByte v _ idle context inbox
    obtain ⟨u, fs, run, goes', left', got', released', words', shapes'⟩ :=
      ih (goes.idle idle) (goes.context.trans context) left
    refine ⟨u, es ++ fs, first.trans run (by rw [List.length_cons]; omega), goes.trans goes', left',
      got'.trans got, fun _ => released' (.inr released), ?_, ?_⟩
    · rw [List.filterMap_append, words, words', List.map_cons, List.singleton_append]
    · rw [List.filterMap_append, shapes, shapes', goes.ctx, List.flatMap_cons]

/-! ### The program `rbytes` -/

theorem getLsbD_withBit (v : Byte) (i : Fin 8) (b : Bool) {k : Nat} (hk : k < 8) :
    (withBit v i b).getLsbD k = if k = i then b else v.getLsbD k := by
  have set : (bitByte b <<< i.val).getLsbD k = (decide (k = i) && b) := by
    simp only [bitByte, BitVec.getLsbD_shiftLeft, BitVec.getLsbD_setWidth, BitVec.getLsbD_ofBool]
    grind
  have keep : (1#8 <<< i.val).getLsbD k = decide (k = i) := by
    simp only [BitVec.getLsbD_shiftLeft, BitVec.getLsbD_one]
    grind
  rw [withBit, BitVec.getLsbD_or, BitVec.getLsbD_and, BitVec.getLsbD_not, set, keep]
  by_cases h : k = i <;> simp [h, hk]

/-- The byte assembled from eight samples (R201). -/
theorem getLsbD_assembled {ls : List Level} (h : ls.length = 8) {k : Nat} (hk : k < 8) :
    ((bitOrder.zip ls).foldl (fun v il => withBit v il.1 (levelBit il.2)) 0#8).getLsbD k =
      decide (ls[k]? = some .high) := by
  match ls, h with
  | [_, _, _, _, _, _, _, _], _ =>
    simp only [bitOrder, List.zip_cons_cons, List.zip_nil_right, List.foldl, getLsbD_withBit _ _ _ hk]
    interval_cases k <;> simp [levelBit]

/-- A READ_BYTE in a program takes eight samples, each the environment's answer, into RXDATA, bit 0
first (R201). -/
theorem afterCommand_readByte {s : State} (mask : s.ctx.mIn ≠ 0#32) : ∃ es,
    (afterCommand .readByte s).hist = s.hist ++ es ∧ Released (afterCommand .readByte s) ∧
      es.filterMap startWord = [0x07#32] ∧ es.filterMap shapeOf =
        (List.replicate 8 (readSlotShape Config.T_RL s.ctx.tWri.toNat Config.T_RREC)).flatten ∧
      AnsweredFrom s.epoch s.hist es ∧ (es.filterMap sampled).length = 8 ∧
      ∀ b < 8, (afterCommand .readByte s).rxdata.getLsbD b =
        decide ((es.filterMap sampled)[b]? = some .high) := by
  obtain ⟨t, es, _, run, hist, _, stamped, shape, answers, count, shift, _, ht⟩ :=
    readSlots_next Config.platform s.ctx bitOrder (loadShift 0#8 (accept (encode .readByte) s))
      (by decide) mask
  have completes : afterCommand .readByte s = finish .none (shiftToRxdata t) :=
    congrArg (fun x => finish .none (shiftToRxdata x)) run
  have samples := filterMap_command sampled (first := .cmdStart (encode .readByte) s.now)
    (last := .cmdEnd t.seq.op .none t.now) rfl rfl es
  rw [completes]
  refine ⟨.cmdStart (encode .readByte) s.now :: (es ++ [.cmdEnd t.seq.op .none t.now]), ?_, ⟨rfl, ?_⟩,
    startWord_command stamped .., (filterMap_command shapeOf rfl rfl es).trans shape, ?_,
    (congrArg List.length samples).trans count, ?_⟩
  · rw [finish_hist]
    simp [shiftToRxdata, hist]
  · rw [finish_line, ht]
    rfl
  · have accepted : AnsweredFrom s.epoch s.hist [.cmdStart (encode .readByte) s.now] := .of_no_sample rfl
    exact accepted.append (.append answers (.of_no_sample rfl))
  · intro b hb
    rw [samples, ← getLsbD_assembled count hb]
    exact congrArg (BitVec.getLsbD · b) shift

/-- The four steps of a READ_BYTE and a load in a program. -/
theorem runsTo_readByte (rest : List HostEntry) {s : State} (idle : s.seq.busy = false)
    (context : s.ctxValid = true) (mask : s.ctx.mIn ≠ 0#32) (inbox : s.inbox =
      hostCommand Config.platform .readByte ++ hostLoad Config.platform .RXDATA :: rest) :
    ∃ t es, RunsTo 4 s t ∧ GoesOn s es t ∧ t.inbox = rest ∧ t.got = s.got ++ [rxdataWord t] ∧
      Released t ∧ es.filterMap startWord = [0x07#32] ∧ es.filterMap shapeOf =
        (List.replicate 8 (readSlotShape Config.T_RL s.ctx.tWri.toNat Config.T_RREC)).flatten ∧
      AnsweredFrom s.epoch s.hist es ∧ (es.filterMap sampled).length = 8 ∧
      ∀ b < 8, t.rxdata.getLsbD b = decide ((es.filterMap sampled)[b]? = some .high) := by
  obtain ⟨es, hist, reads⟩ := afterCommand_readByte mask
  have command := runsTo_hostCommand (i := .readByte) idle inbox (needCtx_eq_none.2 context)
  have goes := goesOn_afterCommand (i := .readByte) nofun nofun hist
  have got := afterCommand_got .readByte s
  generalize afterCommand .readByte s = u at *
  have load := runsTo_hostLoad (r := .RXDATA) (rest := rest)
    (s := withInbox (hostLoad Config.platform .RXDATA :: rest) u) (goes.idle idle) rfl
  exact ⟨_, es, command.trans load rfl, goes.host rest _, rfl, congrArg (· ++ _) got, reads⟩

/-- The values `vs` hold the samples `ls`, eight a value, bit 0 first, below zeros (R33, R67). -/
def HoldSamples (vs : List Word) (ls : List Level) : Prop :=
  ∀ j b, j < vs.length → b < 8 → ∃ v, vs[j]? = some v ∧ v.extractLsb' 8 24 = 0#24 ∧
    v.getLsbD b = decide (ls[8 * j + b]? = some .high)

theorem HoldSamples.cons {v : Word} {vs : List Word} {ls ms : List Level} (count : ls.length = 8)
    (high : v.extractLsb' 8 24 = 0#24)
    (bits : ∀ b < 8, v.getLsbD b = decide (ls[b]? = some .high)) (h : HoldSamples vs ms) :
    HoldSamples (v :: vs) (ls ++ ms) := by
  intro j b hj hb
  cases j with
  | zero =>
    refine ⟨v, rfl, high, ?_⟩
    rw [bits b hb, List.getElem?_append_left (by omega), Nat.mul_zero, Nat.zero_add]
  | succ j =>
    obtain ⟨x, hx, zeros, bit⟩ := h j b (by simpa using hj) hb
    refine ⟨x, hx, zeros, ?_⟩
    rw [bit, List.getElem?_append_right (by omega)]
    congr 4
    omega

theorem rxdataWord_bit (s : State) {b : Nat} (hb : b < 8) :
    (rxdataWord s).getLsbD b = s.rxdata.getLsbD b := by
  rw [rxdataWord, BitVec.getLsbD_setWidth, decide_eq_true (by omega), Bool.true_and]

/-- Byte by byte: the words accepted, the slots on the wire, the samples and the values read (R201). -/
theorem runsTo_rbytes (k : Nat) {s : State} (idle : s.seq.busy = false) (context : s.ctxValid = true)
    (mask : s.ctx.mIn ≠ 0#32) (inbox : s.inbox = expand Config.platform (.rbytes k)) :
    ∃ t es vs, RunsTo (4 * k) s t ∧ GoesOn s es t ∧ t.inbox = [] ∧ t.got = s.got ++ vs ∧
      vs.length = k ∧ (0 < k ∨ Released s → Released t) ∧
      es.filterMap startWord = List.replicate k 0x07#32 ∧
      es.filterMap shapeOf = (List.replicate (8 * k)
        (readSlotShape Config.T_RL s.ctx.tWri.toNat Config.T_RREC)).flatten ∧
      AnsweredFrom s.epoch s.hist es ∧ HoldSamples vs (es.filterMap sampled) := by
  induction k generalizing s with
  | zero =>
    exact ⟨s, [], [], rfl, .refl s, inbox, (List.append_nil _).symm, rfl, by simp, rfl, rfl,
      .of_no_sample rfl, fun j _ hj => absurd hj j.not_lt_zero⟩
  | succ k ih =>
    obtain ⟨t, es, first, goes, left, got, released, words, shapes, answers, count, bits⟩ :=
      runsTo_readByte _ idle context mask inbox
    obtain ⟨u, fs, vs, run, goes', left', got', length', released', words', shapes', answers',
      holds⟩ := ih (goes.idle idle) (goes.context.trans context) (goes.ctx ▸ mask) left
    obtain ⟨_, zeros⟩ := rxdataWord_fields t
    refine ⟨u, es ++ fs, rxdataWord t :: vs, first.trans run (by omega), goes.trans goes', left', ?_,
      by simp [length'], fun _ => released' (.inr released), ?_, ?_, ?_, ?_⟩
    · rw [got', got, List.append_assoc, List.singleton_append]
    · rw [List.filterMap_append, words, words', List.replicate_succ, List.singleton_append]
    · rw [List.filterMap_append, shapes, shapes', goes.ctx, Nat.mul_succ, Nat.add_comm,
        List.replicate_add, List.flatten_append]
    · rw [goes.epoch, goes.hist] at answers'
      exact answers.append answers'
    · rw [List.filterMap_append]
      exact .cons count zeros (fun b hb => (rxdataWord_bit t hb).trans (bits b hb)) holds

/-- Settles O60, byte by byte. -/
theorem byteSequencePrograms : Obligations.ByteSequencePrograms := by
  refine ⟨fun s bs idle context inbox => ?_, fun s k idle context mask inbox => ?_⟩
  · obtain ⟨t, es, run, goes, left, got, released, words, shapes⟩ := runsTo_wbytes bs idle context inbox
    exact ⟨t, es, run, left, got, goes.ovr, fun h => released (.inl h), goes.hist, words, shapes⟩
  · obtain ⟨t, es, vs, run, goes, left, got, length, released, words, shapes, answers, holds⟩ :=
      runsTo_rbytes k idle context mask inbox
    exact ⟨t, es, vs, run, left, goes.ovr, got, length, fun h => released (.inl h), goes.hist, words,
      shapes, answers, fun j b hj => holds j b (length.symm ▸ hj)⟩

end Sys2Proof.Machine
end

section
/-! SUPPORT. A command word dropped inside a running command (30_encoding.md R106, 10_state.md R42): the
command goes on, and only the levels it samples from then on may differ. -/

namespace Sys2Proof.Machine

/-! ### States that differ in what the dropped word can change -/

/-- The state with OVR set, and the sampled bits, the words read and the history replaced. -/
def disturbed (l : Level) (v : Byte) (q : List PortAccess) (h : List Event) (s : State) : State :=
  { s with ovr := true, seq := { s.seq with sample := l, shift := v }, port := q, hist := h }

/-- `t` is `u` with OVR set and other samples taken: the same events but for their levels and the drop,
the same port accesses but for the words read. -/
def SameButSamples (t u : State) : Prop :=
  ∃ l v q h, t = disturbed l v q h u ∧ h.filterMap undisturbed = u.hist.filterMap undisturbed ∧
    q.map portTarget = u.port.map portTarget

theorem sameButSamples_drop (w : Word) (s : State) : SameButSamples (drop w s) s :=
  ⟨s.seq.sample, s.seq.shift, s.port, s.hist ++ [.dropped w s.now], rfl, by simp [undisturbed], rfl⟩

theorem undisturbed_snoc {es fs : List Event} (h : es.filterMap undisturbed = fs.filterMap undisturbed)
    {a b : Event} (hab : undisturbed a = undisturbed b) :
    (es ++ [a]).filterMap undisturbed = (fs ++ [b]).filterMap undisturbed := by
  rw [List.filterMap_append, List.filterMap_append, h, List.filterMap_cons, List.filterMap_cons, hab]

theorem portTarget_snoc {qs rs : List PortAccess} (h : qs.map portTarget = rs.map portTarget)
    {a b : PortAccess} (hab : portTarget a = portTarget b) :
    (qs ++ [a]).map portTarget = (rs ++ [b]).map portTarget := by
  rw [List.map_append, List.map_append, h, List.map_singleton, List.map_singleton, hab]

section Preserved

variable {p : Platform} {t u : State}

theorem SameButSamples.prim (h : SameButSamples t u) (q : Prim) :
    SameButSamples (runPrim p q t) (runPrim p q u) := by
  obtain ⟨l, v, port, hist, rfl, events, targets⟩ := h
  cases q with
  | gw k => exact ⟨l, v, _, _, rfl, undisturbed_snoc events rfl, portTarget_snoc targets rfl⟩
  | gr => exact ⟨_, v, _, _, rfl, undisturbed_snoc events rfl, portTarget_snoc targets rfl⟩
  | delay n => exact ⟨l, v, port, _, rfl, undisturbed_snoc events rfl, targets⟩

theorem SameButSamples.micro (h : SameButSamples t u) (m : Micro) :
    SameButSamples (runMicro p m t) (runMicro p m u) := by
  have indexed : SameButSamples (setIndex m.bit t) (setIndex m.bit u) := by
    obtain ⟨l, v, port, hist, rfl, events, targets⟩ := h
    cases m.bit <;> exact ⟨l, v, port, hist, rfl, events, targets⟩
  obtain ⟨l, v, port, hist, ran, events, targets⟩ := indexed.prim (p := p) m.prim
  rw [runMicro, runMicro, ran]
  cases m.latch <;> exact ⟨l, _, port, hist, rfl, events, targets⟩

theorem SameButSamples.micros (h : SameButSamples t u) (ms : List Micro) :
    SameButSamples (runMicros p ms t) (runMicros p ms u) := by
  induction ms generalizing t u with
  | nil => exact h
  | cons m ms ih => exact ih (h.micro m)

end Preserved

/-- `t` is `u` with OVR set, and with other samples and what they decide: the same events but for their
levels and the drop, the same port accesses but for the words read. -/
structure SameButResults (t u : State) : Prop where
  state : t = { u with
    ovr := true
    presence := t.presence
    rxdata := t.rxdata
    seq := { u.seq with sample := t.seq.sample, shift := t.seq.shift }
    port := t.port
    hist := t.hist }
  events : t.hist.filterMap undisturbed = u.hist.filterMap undisturbed
  targets : t.port.map portTarget = u.port.map portTarget

theorem SameButSamples.finished {t u : State} (h : SameButSamples t u) (p : Platform) (i : Instr) :
    SameButResults (finish .none ((commandOf p i).result t))
      (finish .none ((commandOf p i).result u)) := by
  obtain ⟨l, v, port, hist, rfl, events, targets⟩ := h
  cases i <;> exact ⟨rfl, undisturbed_snoc events rfl, targets⟩

/-! ### The completion after a drop -/

section Drop

variable (p : Platform) (i : Instr) (w : Word) (s : State)

theorem micros_drop : (commandOf p i).micros (drop w s) = (commandOf p i).micros s := by
  cases i <;> rfl

/-- A word dropped in a stopped command changes its completion only by the samples to come. -/
theorem completed_drop : SameButResults (completed p i (drop w s)) (completed p i s) := by
  rw [completed, completed, micros_drop]
  exact ((sameButSamples_drop w s).micros _).finished p i

/-- What a RESET's last sample decides, and what no other command touches (R185, R31). -/
theorem completed_presence : (completed p i s).presence =
    if i = .reset then decide ((completed p i s).seq.sample = .low) else s.presence := by
  cases i with
  | reset => rfl
  | _ => exact runMicros_presence ..

/-- What a command's last sample or its byte decides of RXDATA (R152, R192, R201). -/
theorem completed_rxdata_of_read :
    (i = .readBit ∨ i = .readLevel → (completed p i s).rxdata =
      if (completed p i s).seq.sample = .high then 1#8 else 0#8) ∧
    (i = .readByte → (completed p i s).rxdata = (completed p i s).seq.shift) := by
  have bit : ∀ l, bitByte (levelBit l) = if l = .high then 1#8 else 0#8 := fun l => by cases l <;> rfl
  refine ⟨?_, ?_⟩
  · rintro (rfl | rfl)
    · exact bit _
    · exact bit _
  · rintro rfl
    rfl

/-- The other commands' RXDATA does not come from the line. -/
theorem completed_rxdata_of_not_read (h : i ≠ .readBit ∧ i ≠ .readLevel ∧ i ≠ .readByte) :
    (completed p i s).rxdata =
      if i = .getRomidCrcSupport then bitByte s.ctx.rcs else s.rxdata := by
  obtain ⟨hb, hl, hB⟩ := h
  cases i with
  | readBit => exact absurd rfl hb
  | readLevel => exact absurd rfl hl
  | readByte => exact absurd rfl hB
  | getRomidCrcSupport => exact congrArg (fun c : Context => bitByte c.rcs) (runMicros_ctx ..)
  | _ => exact runMicros_rxdata ..

theorem runMicros_dropped (ms : List Micro) :
    (runMicros p ms s).hist.filter isDropped = s.hist.filter isDropped :=
  runMicros_keeps (·.hist.filter isDropped) p
    (fun m s => by rcases m with ⟨_ | _ | _, _, _⟩ <;> simp [runMicro, runPrim, isDropped]) ms s

/-- A command drops no word. -/
theorem completed_dropped : (completed p i s).hist.filter isDropped = s.hist.filter isDropped := by
  obtain ⟨_, _, _, _, _, h⟩ := writesResults_result p i
    (runMicros p (((commandOf p i).micros s).drop s.seq.step) s)
  rw [completed, h]
  simp [runMicros_dropped, isDropped]

theorem now_le_runMicros (ms : List Micro) : s.now ≤ (runMicros p ms s).now := by
  obtain ⟨_, records⟩ := runMicros_records p ms s
  exact records.time

theorem now_le_completed : s.now ≤ (completed p i s).now := by
  obtain ⟨_, _, _, _, _, h⟩ := writesResults_result p i
    (runMicros p (((commandOf p i).micros s).drop s.seq.step) s)
  rw [completed, h]
  exact now_le_runMicros p s _

end Drop

/-! ### Where the word lands -/

theorem RunsFrom.with_drop {p : Platform} {i : Instr} {s u : State} (h : RunsFrom p i s u) (w : Word) :
    RunsFrom p i (drop w s) (drop w u) := by
  rcases h with ⟨h0, hc, rfl⟩ | ⟨h0, rfl⟩
  · refine .inl ⟨h0, ?_, ?_⟩
    · rw [← hc]
      cases i <;> rfl
    · cases i <;> rfl
  · exact .inr ⟨h0, rfl⟩

theorem RunsFrom.with_inbox {p : Platform} {i : Instr} {s u : State} (h : RunsFrom p i s u)
    (b : List HostEntry) : RunsFrom p i (withInbox b s) (withInbox b u) := by
  have same : withInbox b u = outside s.staging s.ovr s.got b u := by
    rcases h.cases with ⟨_, rfl⟩ | ⟨_, _, _, rfl⟩ <;> rfl
  rw [same]
  exact h.with_outside s.staging s.ovr s.got b

theorem stoppedAt_withInbox (p : Platform) (i : Instr) (k : Nat) (b : List HostEntry) (u : State) :
    stoppedAt p i k (withInbox b u) = withInbox b (stoppedAt p i k u) := by
  rw [stoppedAt, show (commandOf p i).micros (withInbox b u) = (commandOf p i).micros u from
    micros_outside p i u.staging u.ovr u.got b u]
  exact runMicros_inbox_update ..

/-- A store to CMD that is due inside a running command is dropped. -/
theorem step_drops {s : State} {k : Nat} {w : Word} (hb : s.seq.busy = true) (hk : k ≤ s.seq.step) :
    step (withInbox [⟨some k, .store Config.P_BASE 4 w⟩] s) = .next (withInbox [] (drop w s)) := by
  have due : takeAction (withInbox [⟨some k, .store Config.P_BASE 4 w⟩] s) =
      some (.store Config.P_BASE 4 w, withInbox [] s) :=
    takeAction_due (s := withInbox [_] s) rfl (actionDue_of_le (k := k) rfl hk)
  rw [step_store_cmd due, writeCmd, if_pos (show (withInbox [] s).seq.busy = true from hb)]
  rfl

/-- A command that has yet to reach the count of the next action stops there. -/
theorem RunsFrom.step_stops {i : Instr} {s u : State} {e : HostEntry} {k : Nat}
    (h : RunsFrom Config.platform i s u) (hb : s.seq.busy = true) (hd : decode s.seq.word = .ok i)
    (he : e.stop = some k) (hj : s.seq.step < k) (hk : k ≤ primCount i) :
    step (withInbox [e] s) = .next (withInbox [e] (stoppedAt Config.platform i k u)) := by
  have stop : stopAt (withInbox [e] s) = some k := he
  have waits := actionDue_of_lt stop hj
  have runs := h.with_inbox [e]
  rw [step_running (takeAction_not_due (s := withInbox [e] s) hb waits) hb hd,
    exec_not_due waits, runs.runFrom, advance_stops ((stopAt_congr runs.inbox_eq).trans stop) hk,
    stoppedAt_withInbox]

/-- Three steps drop the word and complete the command; `m` is the state in which the word lands. -/
theorem RunsFrom.runsTo_drop {i : Instr} {s u : State} {k : Nat} (w : Word)
    (h : RunsFrom Config.platform i s u) (hb : s.seq.busy = true) (hd : decode s.seq.word = .ok i)
    (hk : k ≤ s.seq.step ∨ k ≤ primCount i) : ∃ ms m, m = runMicros Config.platform ms u ∧
      completed Config.platform i m = completed Config.platform i u ∧
      RunsTo 3 (withInbox [⟨some k, .store Config.P_BASE 4 w⟩] s)
        (withInbox [] (completed Config.platform i (drop w m))) := by
  rcases Nat.lt_or_ge s.seq.step k with hj | hj
  · have hl : k ≤ primCount i := hk.resolve_left (by omega)
    have hju : u.seq.step ≤ k := (h.step_eq.trans_lt hj).le
    have at_k := stoppedAt_step (p := Config.platform) hju hl
    have busy : (stoppedAt Config.platform i k u).seq.busy = true :=
      (runMicros_busy ..).trans (h.busy.trans hb)
    have word : (stoppedAt Config.platform i k u).seq.word = s.seq.word :=
      (runMicros_word ..).trans h.word_eq
    have begun : RunsFrom Config.platform i (stoppedAt Config.platform i k u) _ := .inr ⟨by omega, rfl⟩
    have completes := (begun.with_drop w).step_undisturbed (b := []) busy (word ▸ hd) rfl
    exact ⟨_, _, rfl, completed_stoppedAt hju hl,
      run_three (h.step_stops hb hd rfl hj hl) (step_drops busy at_k.ge) completes⟩
  · have completes := (h.with_drop w).step_undisturbed (b := []) hb hd rfl
    have rests : step (withInbox [] (completed Config.platform i (drop w u))) =
        .next (withInbox [] (completed Config.platform i (drop w u))) :=
      step_at_rest (takeAction_empty rfl) rfl
    exact ⟨[], u, rfl, rfl, run_three (step_drops hb hj) completes rests⟩

theorem RunsFrom.hist_eq {p : Platform} {i : Instr} {s u : State} (h : RunsFrom p i s u) :
    u.hist = s.hist :=
  h.records.hist.trans (List.append_nil _)

/-- Settles O58: the drop commutes with the completion but for the samples taken after it. -/
theorem aDroppedWordLeavesTheCommandRunning : Obligations.ADroppedWordLeavesTheCommandRunning := by
  intro s k w i hb hi hd hk hp
  obtain ⟨u, hu⟩ := runsFrom_of_passes Config.platform hp
  obtain ⟨ms, m, hm, same, run⟩ := hu.runsTo_drop w hb hd hk
  have early : s.now ≤ m.now := hm ▸ hu.records.time.trans (now_le_runMicros ..)
  have none_dropped : m.hist.filter isDropped = s.hist.filter isDropped := by
    rw [hm, runMicros_dropped, hu.hist_eq]
  have presence_kept : m.presence = s.presence := hm ▸ congrArg Prod.fst (hu.results_eq ms)
  have undropped := hu.step_undisturbed (b := []) hb hd rfl
  rw [show withInbox [] s = s by rw [withInbox, ← hi], ← same] at undropped
  have alike := completed_drop Config.platform i w m
  have presence := completed_presence Config.platform i (drop w m)
  obtain ⟨bit, byte⟩ := completed_rxdata_of_read Config.platform i (drop w m)
  have other := completed_rxdata_of_not_read Config.platform i
  refine ⟨_, _, m.now, run, undropped, rfl, rfl, rfl, early,
    now_le_completed Config.platform i (drop w m), ?_, alike.events, alike.targets,
    congrArg (withInbox []) alike.state, ⟨fun hr => ?_, fun hr => ?_⟩, bit, byte, fun hr => ?_⟩
  · refine (completed_dropped ..).trans ?_
    rw [drop_hist, List.filter_append, none_dropped]
    rfl
  · exact presence.trans (if_pos hr)
  · exact presence.trans ((if_neg hr).trans presence_kept)
  · exact (other (drop w m) hr).trans (other m hr).symm

end Sys2Proof.Machine
end

section
/-! SUPPORT. The raw line commands and the level of the wire (40_line_driver.md R142 to R152, 10_state.md
R28). -/

namespace Sys2Proof.Machine

/-! ### The wire -/

/-- A push-pull pad's High stands where nothing pulls against it (R28, R146). -/
theorem wire_driven_high {p : Platform} {s : State} {t : Nat} (drives : masterHigh p s = true)
    (agrees : envLevel p s t = .high) : wire p s t = .high := by
  have notLow : masterLow s = false := by
    simp_all [masterHigh, masterLow]
  simp [wire, notLow, drives, agrees]

/-- An open-drain pad with its latch High leaves the wire to the environment (R28, R146). -/
theorem wire_openDrain_high {p : Platform} {s : State} (t : Nat) (latch : s.line.lvl = .high)
    (pad : p.PAD_DRIVE = .openDrain) : wire p s t = envLevel p s t := by
  simp [wire, masterLow, masterHigh, latch, pad]

/-- Settles O28: one lemma about `wire` for each clause. -/
theorem wireLevel : Obligations.WireLevel := by
  refine fun p s t => ⟨fun dir latch => ?_, fun dir latch pad agrees => ?_, fun _ latch pad => ?_,
    wire_released p s t⟩
  · exact wire_driven_low p s t (by simp [masterLow, dir, latch])
  · exact wire_driven_high (by simp [masterHigh, dir, latch, pad]) agrees
  · exact wire_openDrain_high t latch pad

/-! ### The commands -/

/-- What a command whose one primitive is a GW leaves when it completes (R142, R109). -/
theorem finish_drive (p : Platform) (k : DriveKind) {s : State} (fresh : Fresh s) :
    ∃ t, Within s.now 0 p.T_GPIO_MAX t ∧
      finish .none (runMicros p (plain [.gw k]) s) = { s with
        line := driveLine s.line k
        port := s.port ++ [.write (driveAddr s.ctx k) (driveData s.ctx k)]
        now := t
        draws := s.draws + 1
        err := .none
        done := true
        seq := { s.seq with busy := false, step := 1 }
        hist := s.hist ++ [.drive k t, .cmdEnd s.seq.op .none t] } := by
  obtain ⟨t, within, drive⟩ := gw_next p k s
  have run : runMicros p (plain [.gw k]) s = countStep (gw p k s) := rfl
  refine ⟨t, within, ?_⟩
  rw [run, drive]
  simp [finish, emit, countStep, fresh.1]

/-- Settles O25: SET_DIRECTION is the one GW of its direction. -/
theorem setDirectionDrivesThePin : Obligations.SetDirectionDrivesThePin := by
  intro dir s fresh context
  obtain ⟨t, within, completes⟩ := finish_drive Config.platform (dirKind dir) fresh
  have run := (setDirectionCommand dir).run_passes Config.platform fresh
    (needCtx_eq_none.2 context) rfl rfl
  refine ⟨t, within, run.trans (congrArg _ (completes.trans ?_))⟩
  cases dir <;> rfl

/-- Settles O26: SET_LEVEL is the one GW of its level. -/
theorem setLevelDrivesTheLatch : Obligations.SetLevelDrivesTheLatch := by
  intro lvl s fresh context
  obtain ⟨t, within, completes⟩ := finish_drive Config.platform (lvlKind lvl) fresh
  have run := (setLevelCommand lvl).run_passes Config.platform fresh
    (needCtx_eq_none.2 context) rfl rfl
  refine ⟨t, within, run.trans (congrArg _ (completes.trans ?_))⟩
  cases lvl <;> rfl

/-- RXDATA is 1 for a High sample and 0 for a Low one (R152, R192). -/
theorem bitByte_levelBit (l : Level) : bitByte (levelBit l) = if l = .high then 1#8 else 0#8 := by
  cases l <;> rfl

/-- Settles O27: READ_LEVEL is one GR, whose sample it copies into RXDATA. -/
theorem readLevelSamplesTheWire : Obligations.ReadLevelSamplesTheWire := by
  intro s fresh context mask
  obtain ⟨t, w, within, bits, sample⟩ := gr_next Config.platform s mask
  have run := readLevelCommand.run_passes Config.platform fresh (needCtx_eq_none.2 context) rfl rfl
  have one : runMicros Config.platform (readLevelCommand.micros (readLevelCommand.load s))
      (readLevelCommand.load s) = countStep (gr Config.platform s) := rfl
  refine ⟨t, _, w, within, rfl, bits, run.trans (congrArg _ ?_)⟩
  rw [one, sample]
  simp [readLevelCommand, sampleToRxdata, setRxdata, finish, emit, countStep, fresh.1,
    bitByte_levelBit]

end Sys2Proof.Machine
end

section
/-! SUPPORT. The delay commands (41_timing.md R165, R166), from what a command of one Delay does (R161). -/

namespace Sys2Proof.Machine

/-- What a command of one delay of `n` µs does: it passes its empty check, waits once and completes with
NONE (R161, R109, R111). -/
theorem delayCommand_next (p : Platform) (n : Nat) {s : State} (fresh : Fresh s) :
    ∃ d, n ≤ d ∧ d ≤ n + p.DELAY_JITTER ∧ (delayCommand n).run p s = .next { s with
      now := s.now + d
      draws := s.draws + 1
      err := .none
      done := true
      seq := { s.seq with busy := false, step := 1 }
      hist := s.hist ++ [.wait n d (s.now + d), .cmdEnd s.seq.op .none (s.now + d)] } := by
  have run := (delayCommand n).run_passes p fresh rfl rfl rfl
  have one : runMicros p ((delayCommand n).micros ((delayCommand n).load s)) ((delayCommand n).load s) =
      countStep (delay p n s) := rfl
  refine ⟨delayTime p n s, le_delayTime p n s, delayTime_le p n s, run.trans (congrArg _ ?_)⟩
  rw [one]
  simp [delayCommand, delay, finish, emit, countStep, fresh.1]

/-- Settles O29: DELAY_US is the one delay of its operand. -/
theorem delayUsWaitsItsOperand : Obligations.DelayUsWaitsItsOperand := fun n _ fresh =>
  delayCommand_next Config.platform (delayUsTime n) fresh

/-- Settles O30: DELAY_MS is one delay too, of the exact product. -/
theorem delayMsWaitsAThousandTimesItsOperand : Obligations.DelayMsWaitsAThousandTimesItsOperand :=
  fun n _ fresh => delayCommand_next Config.platform (delayMsTime n) fresh

end Sys2Proof.Machine
end

section
/-! SUPPORT. The bit and byte transport (42_transport.md R184 to R202): what each command leaves when it
completes, from what its slots do. -/

namespace Sys2Proof.Machine

/-- A command that passes its check, whose primitives take its loaded state to `t`, completes from `t`
with NONE (R42, R109). -/
theorem execOn_of_runMicros {p : Platform} {i : Instr} {s t : State} (fresh : Fresh s)
    (passes : (commandOf p i).check s = .none)
    (run : runMicros p ((commandOf p i).micros ((commandOf p i).load s)) ((commandOf p i).load s) = t) :
    execOn p i s = .next (finish .none ((commandOf p i).result t)) := by
  have runs : RunsFrom p i s ((commandOf p i).load s) := .inl ⟨fresh.1, passes, rfl⟩
  rw [execOn, Command.run_passes _ p fresh passes runs.inbox_eq runs.step_eq, run]

/-! ### RESET and the bit commands -/

/-- Settles O31: RESET is the reset sequence, whose sample PRESENCE records. -/
theorem resetDetectsPresence : Obligations.ResetDetectsPresence := by
  intro s fresh context mask
  obtain ⟨t1, t2, t3, t4, t5, t6, t7, l, w, h1, h2, h3, h4, h5, h6, h7, answer, bits, sequence⟩ :=
    rstseq_next Config.platform s mask
  have run := execOn_of_runMicros (i := .reset) fresh (needCtx_eq_none.2 context) sequence
  refine ⟨t1, t2, t3, t4, t5, t6, t7, l, w, h1, h2, h3, h4, h5, h6, h7, answer, bits,
    run.trans (congrArg _ ?_)⟩
  simp [commandOf, resetCommand, sampleToPresence, setPresence, finish, emit, slotWrites, fresh.1]

/-- Settles O32: WRITE_BIT is one write slot. -/
theorem writeBitSendsOneSlot : Obligations.WriteBitSendsOneSlot := by
  intro bit s fresh context
  obtain ⟨t1, t2, t3, t4, t5, h1, h2, h3, h4, h5, slot⟩ :=
    wslot_next Config.platform none s.ctx bit s
  have run := execOn_of_runMicros (i := .writeBit bit) fresh (needCtx_eq_none.2 context) slot
  refine ⟨_, _, t1, t2, t3, t4, t5, rfl, rfl, h1, h2, h3, h4, h5, run.trans (congrArg _ ?_)⟩
  simp [commandOf, writeBitCommand, finish, emit, slotWrites, slotLow, slotRec, fresh.1]

/-- Settles O33: READ_BIT is one read slot, whose sample RXDATA takes. -/
theorem readBitReturnsTheSample : Obligations.ReadBitReturnsTheSample := by
  intro s fresh context mask
  obtain ⟨t1, t2, t3, t4, t5, t6, t7, l, w, h1, h2, h3, h4, h5, h6, h7, answer, bits, slot⟩ :=
    rslot_next Config.platform none false s.ctx s mask
  have run := execOn_of_runMicros (i := .readBit) fresh (needCtx_eq_none.2 context) slot
  refine ⟨t1, t2, t3, t4, t5, t6, t7, l, w, h1, h2, h3, h4, h5, h6, h7, answer, bits,
    run.trans (congrArg _ ?_)⟩
  simp [commandOf, readBitCommand, sampleToRxdata, setRxdata, bitByte_levelBit, finish, emit,
    slotWrites, fresh.1]

/-! ### The byte commands -/

/-- Everything a WRITE_BYTE does: the slots of its bits, bit 0 first (R200). -/
theorem writeByte_next (p : Platform) (v : Byte) {s : State} (fresh : Fresh s)
    (context : s.ctxValid = true) : ∃ t es, execOn p (.writeByte v) s = .next t ∧
      t.hist = s.hist ++ es ++ [.cmdEnd s.seq.op .none t.now] ∧ es.length = 40 ∧
      Stamped p s.now es t.now ∧
      es.filterMap shapeOf = bitOrder.flatMap (fun i =>
        if byteBit v i then writeSlotShape p.T_W1L p.T_W1H
        else writeSlotShape s.ctx.tWbl.toNat p.T_W0REC) ∧
      t = { s with
        line := ⟨.input, .low⟩
        port := s.port ++ (List.replicate 8 (slotWrites s.ctx)).flatten
        now := t.now
        draws := s.draws + 40
        err := .none
        done := true
        seq := { s.seq with busy := false, step := 40, i := 7, shift := v }
        hist := t.hist } := by
  obtain ⟨t, es, slots, hist, length, stamped, shapes, ht⟩ :=
    writeSlots_next p s.ctx v bitOrder (loadShift v s) (by decide)
  have run := execOn_of_runMicros (i := .writeByte v) fresh (needCtx_eq_none.2 context) slots
  have op : t.seq.op = s.seq.op := by rw [ht, loadShift_seq]
  refine ⟨finish .none t, es, run, ?_, length, stamped, shapes, ?_⟩
  · rw [finish_hist, hist, op]
    rfl
  · rw [ht]
    simp [finish, emit, loadShift, fresh.1, bitOrder]

/-- Settles O34: what a WRITE_BYTE does on every platform, on the machine's. -/
theorem writeByteSendsEightSlotsLsbFirst : Obligations.WriteByteSendsEightSlotsLsbFirst :=
  fun v _ fresh context => writeByte_next Config.platform v fresh context

/-- Everything a READ_BYTE does: eight read slots, whose samples make RXDATA, bit 0 first (R201). -/
theorem readByte_next (p : Platform) {s : State} (fresh : Fresh s) (context : s.ctxValid = true)
    (mask : s.ctx.mIn ≠ 0#32) : ∃ t es, execOn p .readByte s = .next t ∧
      t.hist = s.hist ++ es ++ [.cmdEnd s.seq.op .none t.now] ∧ es.length = 56 ∧
      Stamped p s.now es t.now ∧
      es.filterMap shapeOf = (List.replicate 8
        (readSlotShape p.T_RL s.ctx.tWri.toNat p.T_RREC)).flatten ∧
      (∀ before l u after, es = before ++ .sample l u :: after →
        l = p.env s.epoch (s.hist ++ before) u) ∧
      (es.filterMap sampled).length = 8 ∧
      (∀ k < 8, t.rxdata.getLsbD k = decide ((es.filterMap sampled)[k]? = some .high)) ∧
      (t.port.drop s.port.length).map portTarget = (List.replicate 8
        [(s.ctx.aOutLow, some s.ctx.vOutLow), (s.ctx.aDirOut, some s.ctx.vDirOut),
          (s.ctx.aDirIn, some s.ctx.vDirIn), (s.ctx.aIn, none)]).flatten ∧
      t = { s with
        rxdata := t.rxdata
        line := ⟨.input, .low⟩
        port := s.port ++ t.port.drop s.port.length
        now := t.now
        draws := s.draws + 56
        err := .none
        done := true
        seq := { s.seq with
          busy := false, step := 56, i := 7, shift := t.rxdata, sample := t.seq.sample }
        hist := t.hist } := by
  obtain ⟨t, es, qs, slots, hist, length, stamped, shapes, answers, count, shift, targets, ht⟩ :=
    readSlots_next p s.ctx bitOrder (loadShift 0#8 s) (by decide) mask
  have run := execOn_of_runMicros (i := .readByte) fresh (needCtx_eq_none.2 context) slots
  have op : t.seq.op = s.seq.op := by rw [ht, loadShift_seq]
  have sent : t.port.drop s.port.length = qs := by rw [ht, loadShift_port, List.drop_left]
  refine ⟨finish .none (shiftToRxdata t), es, run, ?_, length, stamped, shapes, answers, count, ?_, ?_,
    ?_⟩
  · simp [shiftToRxdata, hist, op]
  · intro k hk
    rw [← getLsbD_assembled count hk]
    exact congrArg (BitVec.getLsbD · k) shift
  · exact (congrArg (List.map portTarget) sent).trans targets
  · rw [ht]
    simp [finish, emit, loadShift, shiftToRxdata, setRxdata, fresh.1, bitOrder]

/-- Settles O35: what a READ_BYTE does on every platform, on the machine's. -/
theorem readByteAssemblesEightSamplesLsbFirst : Obligations.ReadByteAssemblesEightSamplesLsbFirst := by
  intro s fresh context mask
  obtain ⟨t, es, run, hist, length, stamped, shapes, answers, _, reads⟩ :=
    readByte_next Config.platform fresh context mask
  exact ⟨t, es, run, hist, length, stamped, shapes, answers, reads⟩

/-! ### Loopback (R202) -/

/-- While no word is accepted the loopback environment keeps its byte and counts the samples. -/
theorem foldl_echoTrack {es : List Event} (h : es.filterMap startWord = []) (a : Option Byte × Nat) :
    es.foldl echoTrack a = (a.1, a.2 + (es.filterMap sampled).length) := by
  induction es generalizing a with
  | nil => rfl
  | cons e es ih =>
    cases e with
    | cmdStart => exact nomatch h
    | sample => exact (ih h _).trans (congrArg (Prod.mk a.1) (Nat.add_right_comm ..))
    | _ => exact ih h a

/-- The loopback environment's answer in a READ_BYTE right after a WRITE_BYTE: `es` are the events of the
one's primitives, which took no sample, `fs` those of the other's so far. -/
theorem echoEnv_in_readByte {h es fs : List Event} {v : Byte} {op : BitVec 5} {t t' t'' : Nat}
    (silent : es.filterMap sampled = []) (hes : es.filterMap startWord = [])
    (hfs : fs.filterMap startWord = []) :
    echoEnv (h ++ .cmdStart (encode (.writeByte v)) t :: (es ++ .cmdEnd op .none t' ::
      .cmdStart (encode .readByte) t'' :: fs)) =
      levelOf (v.getLsbD ((fs.filterMap sampled).length % 8)) := by
  have started : ∀ a, echoTrack a (.cmdStart (encode (.writeByte v)) t) = (some v, 0) := fun a => by
    simp only [echoTrack, decode_encode]
  have kept : ∀ a, echoTrack a (.cmdStart (encode .readByte) t'') = a := fun a => rfl
  rw [echoEnv, List.foldl_append, List.foldl_cons, started, List.foldl_append, foldl_echoTrack hes,
    silent, List.foldl_cons, List.foldl_cons, kept, foldl_echoTrack hfs]
  simp [echoTrack, levelOf]

/-- Events without the shape of a sample hold no sample. -/
theorem sampled_eq_nil {es : List Event} (h : Shape.sample ∉ es.filterMap shapeOf) :
    es.filterMap sampled = [] := by
  refine List.filterMap_eq_nil_iff.2 fun e he => ?_
  cases e with
  | sample l t => exact (h (List.mem_filterMap.2 ⟨.sample l t, he, rfl⟩)).elim
  | _ => rfl

/-- Where the `k`-th sample stands among the events. -/
theorem sample_split {es : List Event} {k : Nat} (h : k < (es.filterMap sampled).length) :
    ∃ before l t after, es = before ++ .sample l t :: after ∧
      (before.filterMap sampled).length = k ∧ (es.filterMap sampled)[k]? = some l := by
  have split := (List.take_append_drop k (es.filterMap sampled)).symm
  rw [List.drop_eq_getElem_cons h] at split
  obtain ⟨before, rest, eq, first, last⟩ := List.filterMap_eq_append_iff.1 split
  obtain ⟨between, e, after, rfl, skipped, hit, _⟩ := List.filterMap_eq_cons_iff.1 last
  cases e with
  | sample l t =>
    refine ⟨before ++ between, l, t, after, by rw [eq, List.append_assoc], ?_, ?_⟩
    · rw [List.filterMap_append, List.filterMap_eq_nil_iff.2 skipped, first, List.append_nil,
        List.length_take, Nat.min_eq_left h.le]
    · rw [List.getElem?_eq_getElem h]
      exact hit.symm
  | _ => exact nomatch hit

/-- Settles O36: the `k`-th sample of the READ_BYTE is the `k`-th since the WRITE_BYTE, which takes none,
so the environment answers bit `k` of its operand. -/
theorem loopbackReadsBackTheByteWritten : Obligations.LoopbackReadsBackTheByteWritten := by
  intro p v s echo context mask inbox
  obtain ⟨t, es, wrote, hist, _, stamped, shapes, ht⟩ := writeByte_next p v
    (s := accept (encode (.writeByte v)) s) ⟨rfl, by simp [stopAt, inbox]⟩ context
  obtain ⟨valid, ctx, empty⟩ : t.ctxValid = s.ctxValid ∧ t.ctx = s.ctx ∧ t.inbox = s.inbox := by
    rw [ht]
    exact ⟨rfl, rfl, rfl⟩
  obtain ⟨u, fs, read, _, _, stamped', _, answers, count, bits, _, hu⟩ := readByte_next p
    (s := accept (encode .readByte) t) ⟨rfl, by simp [stopAt, empty, inbox]⟩ (valid.trans context)
    (ctx ▸ mask)
  refine ⟨t, u, wrote, read, BitVec.eq_of_getLsbD_eq fun k hk => ?_, by rw [hu]⟩
  obtain ⟨before, l, time, after, rfl, number, kth⟩ := sample_split (count ▸ hk)
  have answer := answers before l time after rfl
  have silent : es.filterMap sampled = [] := by
    refine sampled_eq_nil fun hs => ?_
    rw [shapes, List.mem_flatMap] at hs
    obtain ⟨i, _, slot⟩ := hs
    split at slot <;> simp [writeSlotShape] at slot
  have unstarted : before.filterMap startWord = [] := by
    have none_started := stamped'.no_start
    rw [List.filterMap_append, List.append_eq_nil_iff] at none_started
    exact none_started.1
  have since : (accept (encode .readByte) t).hist ++ before = s.hist ++
      .cmdStart (encode (.writeByte v)) s.now :: (es ++
        .cmdEnd (accept (encode (.writeByte v)) s).seq.op .none t.now ::
          .cmdStart (encode .readByte) t.now :: before) := by
    rw [accept_hist, hist, accept_hist]
    simp
  rw [echo, since, echoEnv_in_readByte silent stamped.no_start unstarted, number,
    Nat.mod_eq_of_lt hk] at answer
  rw [bits k hk, kth, answer]
  cases v.getLsbD k <;> rfl

end Sys2Proof.Machine
end

section
/-! SUPPORT. The CRC-8 validator (43_crc.md R220 to R224, R227): the equations of `crcByte` and `crc8`,
their laws, the long division, and what the two commands leave when they complete. -/

namespace Sys2Proof.Machine

/-! ### The function (R222) -/

theorem crc8_append_singleton (bs : List Byte) (v : Byte) :
    crc8 (bs ++ [v]) = crcByte (crc8 bs) v :=
  List.foldl_concat ..

/-- Settles O41: the fold over `bitOrder` unrolled, and the fold over the bytes at its last one. -/
theorem crcByteIsEightBitSteps : Obligations.CrcByteIsEightBitSteps :=
  ⟨fun _ _ => rfl, fun _ _ => rfl, rfl, crc8_append_singleton⟩

/-! ### The laws (R227) -/

theorem crcBit_eq_xor (c : Byte) (b : Bool) :
    crcBit c b = (c >>> 1) ^^^ (if c.getLsbD 0 ^^ b then 0x8C#8 else 0#8) := by
  unfold crcBit
  split
  · rfl
  · exact BitVec.xor_zero.symm

/-- A bit step is linear in the register and the message bit together. -/
theorem crcBit_linear (a b : Byte) (x y : Bool) :
    crcBit (a ^^^ b) (x ^^ y) = crcBit a x ^^^ crcBit b y := by
  have mix : ((a ^^^ b).getLsbD 0 ^^ (x ^^ y)) = ((a.getLsbD 0 ^^ x) ^^ (b.getLsbD 0 ^^ y)) := by
    rw [BitVec.getLsbD_xor]
    simp only [Bool.xor_assoc, Bool.xor_left_comm]
  have feedback : ∀ p q : Bool, (if p ^^ q then 0x8C#8 else 0#8) =
      (if p then 0x8C#8 else 0#8) ^^^ (if q then 0x8C#8 else 0#8) := by decide
  rw [crcBit_eq_xor, mix, feedback, BitVec.ushiftRight_xor_distrib, crcBit_eq_xor a, crcBit_eq_xor b]
  ac_rfl

/-- So is a byte step, in the register and the byte. -/
theorem crcByte_linear (a b v w : Byte) :
    crcByte (a ^^^ b) (v ^^^ w) = crcByte a v ^^^ crcByte b w := by
  simp only [crcByte, bitOrder, byteBit, List.foldl_cons, List.foldl_nil, BitVec.getLsbD_xor,
    crcBit_linear]

theorem crc8_append_singleton_eq_zero_iff (bs : List Byte) (x : Byte) :
    crc8 (bs ++ [x]) = 0#8 ↔ x = crc8 bs := by
  rw [crc8_append_singleton, crcByte_eq_zero_iff]

/-- Settles O42: the register and the byte enter a byte step by their sum, linearly, and a byte step
gives 0 only when they are equal. -/
theorem crcLaws : Obligations.CrcLaws := by
  refine ⟨fun c v => ?_, fun a b => ?_, fun v => crcByte_eq_zero_iff 0#8 v,
    fun bs => (crc8_append_singleton_eq_zero_iff bs _).2 rfl, crc8_append_singleton_eq_zero_iff⟩
  · rw [crcByte_eq_of_xor c, crcByte_eq_of_xor 0#8, BitVec.zero_xor]
  · exact crcByte_linear 0#8 0#8 a b

/-! ### The long division (R220, R221) -/

/-- The register's bits added to the dividend's leading coefficients, bit 0 to the first. -/
def addRegister (c : Byte) (r : List Bool) : List Bool := r.mapIdx fun i b => b ^^ c.getLsbD i

theorem addRegister_zero (r : List Bool) : addRegister 0#8 r = r := by
  simp [addRegister, List.mapIdx_eq_zipIdx_map]

/-- The register's bit 0 stands at the leading coefficient; the rest is the register shifted. -/
theorem addRegister_cons (c : Byte) (b : Bool) (r : List Bool) :
    addRegister c (b :: r) = (c.getLsbD 0 ^^ b) :: addRegister (c >>> 1) r := by
  simp [addRegister, List.mapIdx_cons, Bool.xor_comm, Nat.add_comm]

theorem addRegister_addRegister (c d : Byte) (r : List Bool) :
    addRegister d (addRegister c r) = addRegister (c ^^^ d) r := by
  simp [addRegister, Function.comp_def]

theorem length_polyBelow : polyBelow.length = 8 := rfl

/-- R221: the divisor below x^8, from x^7 down, is 0x8C from bit 0 up. -/
theorem getElem_polyBelow : ∀ (i : Nat) (h : i < polyBelow.length),
    polyBelow[i] = (0x8C#8).getLsbD i := by
  decide

/-- So a subtraction of the divisor adds 0x8C, and leaves the coefficients beyond it as they are. -/
theorem subtractPoly_eq_addRegister (r : List Bool) : subtractPoly r = addRegister 0x8C#8 r := by
  have length : (subtractPoly r).length = (addRegister 0x8C#8 r).length := by
    simp [subtractPoly, addRegister, length_polyBelow]
    omega
  refine List.ext_getElem length fun i _ hi => ?_
  have inside : i < r.length := by simpa [addRegister] using hi
  by_cases h8 : i < 8
  · have below : i < polyBelow.length := h8
    simpa [subtractPoly, addRegister, length_polyBelow, h8, inside] using getElem_polyBelow i below
  · have taken : min 8 r.length = 8 := by omega
    have dropped : 8 + (i - 8) = i := by omega
    have unchanged : (0x8C#8).getLsbD i = false := BitVec.getLsbD_of_ge _ _ (by omega)
    simp [subtractPoly, addRegister, List.getElem_append, length_polyBelow, h8, taken, dropped,
      unchanged]

/-- One step of the division takes the leading bit of the message into the register (R222). -/
theorem longDivision_step (n : Nat) (c : Byte) (b : Bool) (r : List Bool) :
    longDivision (n + 1) (addRegister c (b :: r)) = longDivision n (addRegister (crcBit c b) r) := by
  rw [addRegister_cons, longDivision, crcBit]
  split
  · rw [subtractPoly_eq_addRegister, addRegister_addRegister]
  · rfl

/-- Dividing by the whole message leaves the register added to what follows the message. -/
theorem longDivision_message (m r : List Bool) (c : Byte) :
    longDivision m.length (addRegister c (m ++ r)) = addRegister (m.foldl crcBit c) r := by
  induction m generalizing c with
  | nil => rfl
  | cons b m ih => exact (longDivision_step ..).trans (ih _)

theorem length_messageBits (bs : List Byte) : (messageBits bs).length = 8 * bs.length := by
  simp [messageBits, bitOrder, Nat.mul_comm]

theorem foldl_crcBit_messageBits (bs : List Byte) :
    (messageBits bs).foldl crcBit 0#8 = crc8 bs := by
  simp only [messageBits, List.foldl_flatMap, List.foldl_map]
  rfl

/-- Settles O43: the division starts with the register 0 and ends with the register added to the eight
zeros. -/
theorem crcIsTheLongDivisionsRemainder : Obligations.CrcIsTheLongDivisionsRemainder := by
  intro bs
  have divided := longDivision_message (messageBits bs) (List.replicate 8 false) 0#8
  rw [addRegister_zero, length_messageBits, foldl_crcBit_messageBits] at divided
  rw [divided]
  simp [addRegister]

/-! ### The commands (R223, R224) -/

/-- Settles O39: CRC_CLEAR passes its empty check, has no primitive and completes with its result. -/
theorem crcClearZeroesTheAccumulator : Obligations.CrcClearZeroesTheAccumulator :=
  fun _ fresh => execOn_of_runMicros (i := .crcClear) fresh rfl rfl

theorem countUp_eq_min (n : BitVec 16) : countUp n = BitVec.ofNat 16 (min (n.toNat + 1) 0xFFFF) := by
  rw [← countUp_toNat, BitVec.ofNat_toNat, BitVec.setWidth_eq]

/-- Settles O40: as CRC_CLEAR; the count is written as a minimum (R34). -/
theorem crcUpdateFoldsOneByte : Obligations.CrcUpdateFoldsOneByte := by
  intro v s fresh
  rw [← countUp_eq_min]
  exact execOn_of_runMicros (i := .crcUpdate v) fresh rfl rfl

end Sys2Proof.Machine
end

section
/-! SUPPORT. The session commands (44_session.md R250 to R256) and the invariant at reset
(70_reset_and_hazards.md R310). -/

namespace Sys2Proof.Machine

/-! ### INIT -/

/-- R252, field by field. -/
theorem valid_iff (c : Context) : valid c = true ↔ c.aOutHigh ≠ 0#64 ∧ c.aOutLow ≠ 0#64 ∧
    c.aDirOut ≠ 0#64 ∧ c.aDirIn ≠ 0#64 ∧ c.aIn ≠ 0#64 ∧ c.mIn ≠ 0#32 ∧ c.tWbl ≠ 0#32 ∧
    c.tWri ≠ 0#32 := by
  simp [valid, and_assoc]

/-- INIT asks for a machine without a context and a valid snapshot (R252, R253). -/
theorem initCheck_eq_none {s : State} :
    initCheck s = .none ↔ s.ctxValid = false ∧ valid s.seq.snapshot = true := by
  unfold initCheck
  cases s.ctxValid <;> cases valid s.seq.snapshot <;> simp

/-- IDLE: the latch goes High before the pin drives (R141). -/
theorem idleLine_next (p : Platform) (s : State) :
    ∃ t1 t2, Within s.now 0 p.T_GPIO_MAX t1 ∧ Within t1 0 p.T_GPIO_MAX t2 ∧
      runMicros p (plain idleLine) s = { s with
        line := ⟨.output, .high⟩
        port := s.port ++ [.write s.ctx.aOutHigh s.ctx.vOutHigh, .write s.ctx.aDirOut s.ctx.vDirOut]
        now := t2
        draws := s.draws + 2
        seq := { s.seq with step := s.seq.step + 2 }
        hist := s.hist ++ [.drive .outHigh t1, .drive .dirOut t2] } := by
  obtain ⟨t1, within1, latch⟩ := gw_next p .outHigh s
  obtain ⟨t2, within2, drive⟩ := gw_next p .dirOut (countStep (gw p .outHigh s))
  have two : runMicros p (plain idleLine) s =
      countStep (gw p .dirOut (countStep (gw p .outHigh s))) := rfl
  refine ⟨t1, t2, within1, ?_, ?_⟩
  · simpa [latch] using within2
  · rw [two, drive, latch]
    simp [countStep, driveLine, driveAddr, driveData]

/-- Settles O22: INIT adopts the snapshot, then makes the line idle under it. -/
theorem initStoresTheSnapshotAndIdles : Obligations.InitStoresTheSnapshotAndIdles := by
  intro s fresh context outHigh outLow dirOut dirIn input mask tWbl tWri
  have snapshot : valid s.seq.snapshot = true :=
    (valid_iff _).2 ⟨outHigh, outLow, dirOut, dirIn, input, mask, tWbl, tWri⟩
  obtain ⟨t1, t2, within1, within2, idle⟩ := idleLine_next Config.platform (adoptSnapshot s)
  have run := execOn_of_runMicros (i := .init) fresh (initCheck_eq_none.2 ⟨context, snapshot⟩) idle
  refine ⟨t1, t2, within1, within2, run.trans (congrArg _ ?_)⟩
  simp [commandOf, initCommand, adoptSnapshot, finish, emit, fresh.1]

/-! ### TEARDOWN and GET_ROMID_CRC_SUPPORT -/

/-- Settles O23: TEARDOWN is the one GW that releases the line; CTX_VALID is cleared after it. -/
theorem teardownReleasesAndEndsTheContext : Obligations.TeardownReleasesAndEndsTheContext := by
  intro s fresh context
  obtain ⟨t, within, completes⟩ := finish_drive Config.platform .dirIn fresh
  have run := teardownCommand.run_passes Config.platform fresh (needCtx_eq_none.2 context) rfl rfl
  exact ⟨t, within, run.trans (congrArg (Host.Outcome.next ∘ dropContext) completes)⟩

theorem bitByte_eq_ite (b : Bool) : bitByte b = if b then 1#8 else 0#8 := by
  cases b <;> rfl

/-- Settles O24: GET_ROMID_CRC_SUPPORT has no primitive; its result is the flag of the context. -/
theorem getRomidCrcSupportReturnsTheContextsFlag :
    Obligations.GetRomidCrcSupportReturnsTheContextsFlag := by
  intro s fresh context
  rw [← bitByte_eq_ite]
  exact execOn_of_runMicros (i := .getRomidCrcSupport) fresh (needCtx_eq_none.2 context) rfl

/-! ### The invariant at reset -/

/-- Settles O55: State.reset is the state of a block reset but for the count of block resets, which the
invariant does not read. -/
theorem invariantHoldsAtReset : Obligations.InvariantHoldsAtReset :=
  { blockReset_inv State.reset with }

end Sys2Proof.Machine
end

section
/-! SUPPORT. Failed configuration checks, and the one outcome of a command word (60_exceptions.md R280 to
R284, 30_encoding.md R42, R106, R110). -/

namespace Sys2Proof.Machine

/-! ### Failed checks (R283) -/

/-- A command that fails its check completes with the check's code, after its own result field is
written 0 (R110, R283). -/
theorem exec_fails {i : Instr} {s : State} {e : ErrCode} (fresh : Fresh s)
    (code : expectedErr s s.seq.snapshot i = e) (failed : e ≠ .none) :
    exec i s = .next (finish e ((commandOf Config.platform i).zero s)) := by
  rw [← check_eq_expectedErr Config.platform] at code
  subst code
  exact (exec_eq i s).trans (Command.run_fails _ _ fresh failed)

/-- The result fields a failed check writes 0: RESET's PRESENCE, and the RXDATA of the four commands that
return in it (R283). -/
theorem zero_eq (p : Platform) (i : Instr) (s : State) : (commandOf p i).zero s = { s with
    presence := if i = .reset then false else s.presence
    rxdata := if i = .readBit ∨ i = .readByte ∨ i = .readLevel ∨ i = .getRomidCrcSupport then 0#8
      else s.rxdata } := by
  cases i <;> rfl

theorem expectedErr_without_context {i : Instr} {s : State} (g : Context) (context : s.ctxValid = false)
    (needs : needsCtx i = true) : expectedErr s g i = .cfgUninit := by
  cases i with
  | init | delayUs | delayMs | crcClear | crcUpdate => cases needs
  | _ => simp [expectedErr, needsCtx, context]

/-- Settles O20: the three checks that fail, each with its code, and the result fields written 0. -/
theorem failedChecksWriteOnlyTheirResult : Obligations.FailedChecksWriteOnlyTheirResult := by
  refine fun s fresh => ⟨fun context i needs => ?_, fun context => ?_, fun context missing => ?_⟩
  · have code := expectedErr_without_context s.seq.snapshot context needs
    rw [exec_fails fresh code nofun, zero_eq]
    rfl
  · exact exec_fails (i := .init) fresh (if_pos context) nofun
  · have invalid : ¬ valid s.seq.snapshot = true := by
      rw [valid_iff]
      tauto
    refine exec_fails (i := .init) fresh ?_ nofun
    simp [expectedErr, context, invalid]

/-! ### The one outcome (R284) -/

/-- The command running in `s` has completed in `t` with the code `e`; no host action has landed. -/
structure EndsWith (s t : State) (e : ErrCode) : Prop where
  idle : t.seq.busy = false
  done : t.done = true
  inbox : t.inbox = s.inbox
  ovr : t.ovr = s.ovr
  err : t.err = e

/-- A completion, its results written with it (R109, R110). -/
theorem EndsWith.finish {f : State → State} (hf : WritesResults f) (e : ErrCode) (s : State) :
    EndsWith s (finish e (f s)) e := by
  obtain ⟨_, _, _, _, _, h⟩ := hf s
  rw [h]
  exact ⟨rfl, rfl, rfl, rfl, rfl⟩

/-- A command from its start, undisturbed, completes with the code of its checks (R42, R111, R284). -/
theorem exec_endsWith (i : Instr) {s : State} (fresh : Fresh s) :
    ∃ t, exec i s = .next t ∧ EndsWith s t (expectedErr s s.seq.snapshot i) := by
  by_cases passes : Passes i s
  · obtain ⟨u, runs⟩ := runsFrom_of_passes Config.platform (.inr passes)
    have ends := EndsWith.finish (writesResults_result Config.platform i) .none
      (runMicros Config.platform (((commandOf Config.platform i).micros u).drop u.seq.step) u)
    refine ⟨_, exec_undisturbed runs fresh.2, ends.idle, ends.done, ?_, ?_, ends.err.trans passes.symm⟩
    · exact ends.inbox.trans ((runMicros_inbox ..).trans runs.inbox_eq)
    · exact ends.ovr.trans ((runMicros_ovr ..).trans runs.ovr_eq)
  · exact ⟨_, exec_fails fresh rfl passes, .finish (writesResults_zero Config.platform i) _ s⟩

/-- The checks of an accepted command are made against the staging registers at its acceptance (R251,
R284). -/
theorem expectedErr_accept {w : Word} {i : Instr} (s : State) (hd : decode w = .ok i) :
    expectedErr (accept w s) (accept w s).seq.snapshot i =
      expectedErr s (snapshotOf s.staging) i := by
  cases i with
  | init => rw [accept_seq, if_pos hd]; rfl
  | _ => rfl

/-- The code a command word ends with when it is stored to an idle machine (R284). -/
def wordErr (s : State) (w : Word) : ErrCode :=
  match decode w with
  | .error _ => .illegal
  | .ok i => expectedErr s (snapshotOf s.staging) i

/-- With no host action to come, the step after its acceptance completes a word with its one code. -/
theorem step_accepted (w : Word) {s : State} (inbox : s.inbox = []) :
    ∃ t, step (accept w s) = .next t ∧ EndsWith (accept w s) t (wordErr s w) := by
  have none_due : takeAction (accept w s) = none := takeAction_empty inbox
  unfold wordErr
  cases hd : decode w with
  | error e => exact ⟨_, step_illegal none_due rfl hd, rfl, rfl, rfl, rfl, rfl⟩
  | ok i =>
    have fresh : Fresh (accept w s) := ⟨rfl, by simp [stopAt, inbox]⟩
    obtain ⟨t, run, ends⟩ := exec_endsWith i fresh
    rw [expectedErr_accept s hd] at ends
    exact ⟨t, (step_running none_due rfl hd).trans run, ends⟩

/-- Settles O21: under BUSY the word is dropped; else its acceptance and its completion are two steps. -/
theorem oneOutcomePerCommandWordByPriority : Obligations.OneOutcomePerCommandWordByPriority := by
  refine ⟨fun s s' w h hb => ?_, fun s due w hb hi => ?_⟩
  · obtain ⟨_, rest, _, _, rfl, _⟩ := takeAction_some h
    exact ⟨_, (step_store_cmd h).trans (congrArg Host.Outcome.next (if_pos hb)), rfl, rfl, rfl⟩
  · have accepted : step s = .next (accept w { s with inbox := [] }) :=
      (step_store_cmd (takeAction_idle hi hb)).trans
        (congrArg Host.Outcome.next (if_neg (by simp [hb])))
    obtain ⟨t, completes, ends⟩ := step_accepted w (s := { s with inbox := [] }) rfl
    exact ⟨t, RunsTo.trans (.of_step accepted) (.of_step completes) rfl, ends.idle, ends.done,
      ends.inbox, ends.ovr, ends.err⟩

end Sys2Proof.Machine
end

section
/-! SUPPORT. The block reset and the durations of commands (70_reset_and_hazards.md R310 to R313, R335):
what a list of primitives costs, and which primitives each command has. -/

namespace Sys2Proof.Machine

/-! ### The block reset -/

theorem readReg_reset_of_staging {r : HostReg} (h : isStagingReg r = true) :
    readReg State.reset r = 0#32 := by
  cases r with
  | CMD | STATUS | RXDATA | CRC => cases h
  | _ => rfl

/-- Settles O18: the values of `State.reset`, the staging registers one by one. -/
theorem resetValues : Obligations.ResetValues :=
  ⟨rfl, rfl, rfl, rfl, rfl, rfl, rfl, rfl, fun _ => readReg_reset_of_staging⟩

/-- Settles O19: a block reset that takes effect reads only the model's own fields. -/
theorem blockResetAbandonsTheCommand : Obligations.BlockResetAbandonsTheCommand :=
  fun _ _ h => step_of_takeAction h

/-! ### What primitives cost (R142, R161) -/

/-- The time a primitive takes at least: a delay its operand, an access none (R142, R161). -/
def Prim.least : Prim → Nat
  | .delay n => n
  | .gw _ | .gr => 0

/-- The primitives that keep off the GPIO port (R161). -/
def Prim.isDelay : Prim → Bool
  | .delay _ => true
  | .gw _ | .gr => false

/-- The time primitives take at least. -/
def leastTime (ms : List Micro) : Nat := (ms.map (·.prim.least)).sum

/-- How many of the primitives are delays. -/
def delaysOf (ms : List Micro) : Nat := ms.countP (·.prim.isDelay)

/-- How many of the primitives are GPIO accesses. -/
def accessesOf (ms : List Micro) : Nat := ms.countP (!·.prim.isDelay)

@[simp] theorem leastTime_nil : leastTime [] = 0 := rfl

@[simp] theorem leastTime_cons (m : Micro) (ms : List Micro) :
    leastTime (m :: ms) = m.prim.least + leastTime ms := rfl

@[simp] theorem delaysOf_cons (m : Micro) (ms : List Micro) :
    delaysOf (m :: ms) = m.prim.isDelay.toNat + delaysOf ms := by
  cases h : m.prim.isDelay <;> simp [delaysOf, h, Nat.add_comm]

@[simp] theorem accessesOf_cons (m : Micro) (ms : List Micro) :
    accessesOf (m :: ms) = (!m.prim.isDelay).toNat + accessesOf ms := by
  cases h : m.prim.isDelay <;> simp [accessesOf, h, Nat.add_comm]

/-- Durations that follow each other add up, and so do their overruns. -/
theorem Within.trans {a b c m n j k : Nat} (h : Within a m j b) (g : Within b n k c) :
    Within a (m + n) (j + k) c := by
  unfold Within at *
  omega

/-- A delay overruns its operand by the jitter at most, an access lasts at most T_GPIO_MAX. -/
theorem runMicro_within (p : Platform) (m : Micro) (s : State) :
    Within s.now m.prim.least (m.prim.isDelay.toNat * p.DELAY_JITTER +
      (!m.prim.isDelay).toNat * p.T_GPIO_MAX) (runMicro p m s).now := by
  obtain ⟨q, bit, latch⟩ := m
  cases q with
  | gw | gr =>
    have access := gpioTime_le p (setIndex bit s)
    simpa [Within, runMicro, runPrim, Prim.least, Prim.isDelay] using access
  | delay n =>
    have least := le_delayTime p n (setIndex bit s)
    have most := delayTime_le p n (setIndex bit s)
    simp only [Within, runMicro, runPrim, Prim.least, Prim.isDelay, countStep_now, latchBit_now,
      delay_now, setIndex_now, Bool.toNat_true, Bool.not_true, Bool.toNat_false]
    omega

/-- Primitives follow each other without a gap, so their durations add up (R10, R41). -/
theorem runMicros_within (p : Platform) (ms : List Micro) (s : State) :
    Within s.now (leastTime ms) (delaysOf ms * p.DELAY_JITTER + accessesOf ms * p.T_GPIO_MAX)
      (runMicros p ms s).now := by
  induction ms generalizing s with
  | nil => exact ⟨le_rfl, Nat.le_add_right _ _⟩
  | cons m ms ih =>
    rw [leastTime_cons, delaysOf_cons, accessesOf_cons, Nat.add_mul, Nat.add_mul,
      Nat.add_add_add_comm]
    exact (runMicro_within p m s).trans (ih _)

/-- Each primitive but a delay crosses the port once (R75, R76). -/
theorem runMicro_port_length (p : Platform) (m : Micro) (s : State) :
    (runMicro p m s).port.length = s.port.length + (!m.prim.isDelay).toNat := by
  obtain ⟨_ | _ | _, _, _⟩ := m <;> simp [runMicro, runPrim, Prim.isDelay]

theorem runMicros_port_length (p : Platform) (ms : List Micro) (s : State) :
    (runMicros p ms s).port.length = s.port.length + accessesOf ms := by
  induction ms generalizing s with
  | nil => rfl
  | cons m ms ih =>
    rw [runMicros_cons, ih, runMicro_port_length, accessesOf_cons, Nat.add_assoc]

/-! ### The durations table (R335) -/

/-- The table's multiple of J. -/
theorem delaysOf_commandOf (p : Platform) (i : Instr) (s : State) :
    delaysOf ((commandOf p i).micros s) = delayCount i := by
  cases i <;> rfl

/-- The table's multiple of G. -/
theorem accessesOf_commandOf (p : Platform) (i : Instr) (s : State) :
    accessesOf ((commandOf p i).micros s) = accessCount i := by
  cases i <;> rfl

theorem leastTime_append (ms ns : List Micro) :
    leastTime (ms ++ ns) = leastTime ms + leastTime ns := by
  simp [leastTime]

theorem leastTime_flatMap {α : Type} (f : α → List Micro) (is : List α) :
    leastTime (is.flatMap f) = (is.map fun i => leastTime (f i)).sum := by
  induction is with
  | nil => rfl
  | cons i is ih => rw [List.flatMap_cons, leastTime_append, ih, List.map_cons, List.sum_cons]

/-- The two delays of a write slot (R184). -/
theorem leastTime_wslot (p : Platform) (b : Option (Fin 8)) (c : Context) (bit : Bool) :
    leastTime (tagged b (wslot p c bit)) = slotLow p c bit + slotRec p bit := by
  simp [tagged, wslot, driveLow, release, Prim.least]

/-- The three delays of a read slot (R184). -/
theorem leastTime_rslot (p : Platform) (b : Option (Fin 8)) (on : Bool) (c : Context) :
    leastTime (tagged b (rslotHead p c) ++ [⟨rslotTail p, b, on⟩]) =
      p.T_RL + c.tWri.toNat + p.T_RREC := by
  simp [tagged, rslotHead, rslotTail, driveLow, release, Prim.least, Nat.add_assoc]

/-- The three delays of a reset sequence (R184). -/
theorem leastTime_rstseq (p : Platform) :
    leastTime (plain (rstseq p)) = p.T_RSTL + p.T_PDS + p.T_RSTREC := by
  simp [rstseq, plain, driveLow, release, Prim.least, Nat.add_assoc]

/-- A byte is written in the eight write slots of its bits (R200). -/
theorem leastTime_writeSlots (p : Platform) (s : State) : leastTime (writeSlots p s) =
    (bitOrder.map fun i =>
      slotLow p s.ctx (byteBit s.seq.shift i) + slotRec p (byteBit s.seq.shift i)).sum := by
  rw [writeSlots, leastTime_flatMap]
  exact congrArg List.sum (List.map_congr_left fun i _ => leastTime_wslot p (some i) s.ctx _)

/-- A byte is read in eight read slots (R201). -/
theorem leastTime_readSlots (p : Platform) (s : State) :
    leastTime (readSlots p s) = 8 * (p.T_RL + s.ctx.tWri.toNat + p.T_RREC) := by
  have slot (i : Fin 8) := leastTime_rslot p (some i) true s.ctx
  simp only [readSlots, leastTime_flatMap, under_eq_tagged, slot, List.map_const', List.sum_replicate]
  rfl

/-- The table's minimum: the operands of the command's delays, made from the state that its register
updates leave. -/
theorem leastTime_commandOf (p : Platform) (i : Instr) (s : State) :
    leastTime ((commandOf p i).micros ((commandOf p i).load s)) = minTime p s.ctx i := by
  cases i with
  | reset => exact leastTime_rstseq p
  | writeBit bit => exact leastTime_wslot p none s.ctx bit
  | readBit => exact leastTime_rslot p none false s.ctx
  | writeByte v => exact leastTime_writeSlots p (loadShift v s)
  | readByte => exact leastTime_readSlots p (loadShift 0#8 s)
  | init | teardown | setDirection | setLevel | readLevel | delayUs | delayMs | crcClear | crcUpdate
  | getRomidCrcSupport => rfl

theorem WritesResults.now_eq {f : State → State} (hf : WritesResults f) (s : State) :
    (f s).now = s.now := by
  obtain ⟨_, _, _, _, _, h⟩ := hf s
  rw [h]

/-- On any platform a command that passes its checks completes after its primitives, whose cost is its row
of the table. -/
theorem execOn_within (p : Platform) {i : Instr} {s : State} (fresh : Fresh s) (passes : Passes i s) :
    ∃ t, execOn p i s = .next t ∧ t.err = .none ∧ t.done = true ∧ t.seq.busy = false ∧
      Within s.now (minTime p s.ctx i)
        (delayCount i * p.DELAY_JITTER + accessCount i * p.T_GPIO_MAX) t.now ∧
      t.port.length = s.port.length + accessCount i := by
  have check : (commandOf p i).check s = .none := (check_eq_expectedErr p i s).trans passes
  have loaded : RunsFrom p i s ((commandOf p i).load s) := .inl ⟨fresh.1, check, rfl⟩
  have results := writesResults_result p i
  refine ⟨_, execOn_of_runMicros fresh check rfl, rfl, rfl, rfl, ?_, ?_⟩
  · rw [finish_now, results.now_eq, ← leastTime_commandOf, ← delaysOf_commandOf p i,
      ← accessesOf_commandOf p i, ← loaded.records.still rfl]
    exact runMicros_within p ..
  · rw [finish_port, results.port_eq, runMicros_port_length, accessesOf_commandOf, loaded.port_eq]

/-- Settles O38: what holds of a command's durations on every platform, on the machine's. -/
theorem commandsCompleteWithinTheirDurations : Obligations.CommandsCompleteWithinTheirDurations :=
  fun _ _ fresh passes => exec_eq .. ▸ execOn_within Config.platform fresh passes

end Sys2Proof.Machine
end
